-- ==== Sys2Proof/Word.lean ====
section
/-! DEFINITION. The word types of the block (spec 00_scope.md R9): bits, bytes, delay counts, command words
and response words. -/

namespace Sys2Proof

/-- A bit or a line level: `true` is 1 (high), `false` is 0 (low) (R9). -/
abbrev Bit := Bool

/-- `UInt8` of R9: a buffer slot, WRITE's operand, a received byte, an index of the ring buffer. -/
abbrev Byte := BitVec 8

/-- An unsigned `W`-bit count of delay ticks, `W = 16` (R6, D5). -/
abbrev Ticks := BitVec 16

/-- A 32-bit host command word (R63). -/
abbrev Word := BitVec 32

/-- A 16-bit two's-complement response word (R67). -/
abbrev Response := BitVec 16

end Sys2Proof
end

