-- ==== Sys2Proof/Syntax.lean ====
section
/-! DEFINITION. The host commands and harness words, one constructor per row of spec/opcode_table.json. -/

namespace Sys2Proof

/-- The eleven commands (30_encoding.md R64, R68). `baud` and IDLE's count are the integers R65 assembles; WRITE's
operand is a byte. -/
inductive Instr where
  /-- BEGIN (40 R72). -/
  | beginBaud (baud : Nat)
  /-- END (40 R78). -/
  | endSession
  /-- FLUSH (43 R106). -/
  | flush
  /-- AVAILABLE (43 R103). -/
  | available
  /-- READ (43 R104). -/
  | read
  /-- PEEK (43 R105). -/
  | peek
  /-- WRITE (44 R111). -/
  | write (byte : Byte)
  /-- OVERFLOWED (43 R107). -/
  | overflowed
  /-- IDLE (30 R68). -/
  | idle (n : Nat)
  /-- SEI (30 R68). -/
  | sei
  /-- CLI (30 R68). -/
  | cli
  deriving DecidableEq, Repr

end Sys2Proof
end

