-- ==== Sys2Proof/WellFormed.lean ====
section
/-! DEFINITION. Which commands have a word (30_encoding.md R63, R69: an operand out of range is refused). -/

namespace Sys2Proof

/-- The operand ranges of R65 and R69: a baud below 2^28, an IDLE count below 2^24. The other commands have no
operand, or one whose type already is its range. -/
def Instr.wf : Instr → Bool
  | .beginBaud baud => decide (baud < 2 ^ 28)
  | .endSession => true
  | .flush => true
  | .available => true
  | .read => true
  | .peek => true
  | .write _ => true
  | .overflowed => true
  | .idle n => decide (n < 2 ^ 24)
  | .sei => true
  | .cli => true

end Sys2Proof
end

