-- ==== Sys2Proof/Decode.lean ====
section
/-! DEFINITION. The command word's decoder, total on every word and on every byte list (30_encoding.md R63 to R71), and
after it the encoder, from the table of R69. -/

namespace Sys2Proof

/-- What a word decodes to (R71): a command, or `Reserved(w)`. -/
inductive Decoded where
  | instr (i : Instr)
  | reserved (w : Word)
  deriving DecidableEq, Repr

/-- `word[31:28]` (R63). -/
def Word.op (w : Word) : BitVec 4 := w.extractLsb' 28 4

/-- `word[27:0]` (R63). -/
def Word.operand (w : Word) : BitVec 28 := w.extractLsb' 0 28

/-- `word[27:24]`, the harness sub-code (R68). -/
def Word.sub (w : Word) : BitVec 4 := w.extractLsb' 24 4

/-- `word[23:0]`, IDLE's count (R68). -/
def Word.count (w : Word) : BitVec 24 := w.extractLsb' 0 24

/-- `word[27:8]`, which WRITE requires to be zero (R63). -/
def Word.writeZero (w : Word) : BitVec 20 := w.extractLsb' 8 20

/-- `word[7:0]`, WRITE's byte (R65). -/
def Word.byte (w : Word) : Byte := w.extractLsb' 0 8

/-- A command without operand: its 28 operand bits must be zero (R66). -/
def decodePlain (i : Instr) (w : Word) : Decoded :=
  if w.operand = 0 then .instr i else .reserved w

/-- `decode(w)` of R71. -/
def decode (w : Word) : Decoded :=
  match w.op.toNat with
  | 0x1 => .instr (.beginBaud w.operand.toNat)
  | 0x2 => decodePlain .endSession w
  | 0x3 => decodePlain .flush w
  | 0x4 => decodePlain .available w
  | 0x5 => decodePlain .read w
  | 0x6 => decodePlain .peek w
  | 0x7 => if w.writeZero = 0 then .instr (.write w.byte) else .reserved w
  | 0x8 => decodePlain .overflowed w
  | 0xF =>
    match w.sub.toNat with
    | 0 => .instr (.idle w.count.toNat)
    | 1 => if w.count = 0 then .instr .sei else .reserved w
    | 2 => if w.count = 0 then .instr .cli else .reserved w
    | _ => .reserved w
  | _ => .reserved w

/-- Four bytes, the first at the lowest address, as one word: little-endian (20_memory.md R49, D24). -/
def wordOfBytes (b0 b1 b2 b3 : Byte) : Word := b3 ++ b2 ++ b1 ++ b0

/-- The bytes of a word, little-endian (R49). -/
def bytesOfWord (w : Word) : List Byte :=
  [w.extractLsb' 0 8, w.extractLsb' 8 8, w.extractLsb' 16 8, w.extractLsb' 24 8]

/-- The bytes of a response word, little-endian (R49). -/
def bytesOfResponse (r : Response) : List Byte := [r.extractLsb' 0 8, r.extractLsb' 8 8]

/-- Two bytes, the first at the lowest address, as one response word: little-endian (R49, D24). -/
def responseOfBytes (b0 b1 : Byte) : Response := b1 ++ b0

/-- What a byte list decodes to: the first command and the bytes after it, a reserved word, or too few bytes for a
word (every command word is exactly 32 bits, R70). -/
inductive DecodedBytes where
  | instr (i : Instr) (rest : List Byte)
  | reserved (w : Word)
  | truncated
  deriving DecidableEq, Repr

/-- The decoder on any bytes. -/
def decodeBytes : List Byte → DecodedBytes
  | b0 :: b1 :: b2 :: b3 :: rest =>
    match decode (wordOfBytes b0 b1 b2 b3) with
    | .instr i => .instr i rest
    | .reserved w => .reserved w
  | _ => .truncated

/-- The word of a command, by the table of R69; for an operand out of range (`Instr.wf` false) the operand's low
bits, a case `assembleInstr` refuses. -/
def encode : Instr → Word
  | .beginBaud baud => (0x1 : BitVec 4) ++ BitVec.ofNat 28 baud
  | .endSession => 0x20000000
  | .flush => 0x30000000
  | .available => 0x40000000
  | .read => 0x50000000
  | .peek => 0x60000000
  | .write byte => (0x700000 : BitVec 24) ++ byte
  | .overflowed => 0x80000000
  | .idle n => (0xF0 : BitVec 8) ++ BitVec.ofNat 24 n
  | .sei => 0xF1000000
  | .cli => 0xF2000000

/-- "An assembler refuses an operand out of range rather than truncating it" (R69). -/
def assembleInstr (i : Instr) : Option Word :=
  if i.wf then some (encode i) else none

/-- The word whose low `nbits` bits are `w`'s and whose other bits are zero. -/
def tableWord (nbits w : Nat) : Word := BitVec.ofNat 32 (w % 2 ^ nbits)

/-- The instruction this decoder reads from a word of spec/opcode_table.json's numbering: its bytes laid out
little-endian and given to `decodeBytes`. -/
def decodeTableWord (nbits w : Nat) : Option Instr :=
  match decodeBytes (bytesOfWord (tableWord nbits w)) with
  | .instr i _ => some i
  | .reserved _ => none
  | .truncated => none

end Sys2Proof
end

