-- ==== Sys2Proof/Config.lean ====
section
/-! DEFINITION. The parameters of the block (00_scope.md R6): what an implementation fixes. They are plain data that
every run carries (`State.cfg`) and no step changes, so a claim about every state is a claim about every configuration
(log 1). -/

namespace Sys2Proof

/-- A row of the calibration table, its fields unsigned integers (20_memory.md R46). -/
structure CalRow where
  baud : Nat
  center : Nat
  intra : Nat
  stop : Nat
  tx : Nat
  deriving DecidableEq, Repr

/-- The parameter table of R6, in its order; `W` is fixed at 16 (D5) by the type `Ticks`. -/
structure Params where
  /-- `F_CPU`, Hz. No rule of the cycle step reads it (R45: it selects the table before the run). -/
  fCpu : Nat
  /-- `CAL_TABLE`, in scan order. -/
  calTable : List CalRow
  /-- `K`, cycles per delay tick. -/
  k : Nat
  /-- `START_ADJ`, ticks. -/
  startAdj : Nat
  /-- `C`, ring buffer capacity. -/
  c : Nat
  callPre : Nat
  eRx : Nat
  rxOc : Nat
  rxOb : Nat
  rxOs : Nat
  rxOcm : Nat
  rxXr : Nat
  rxXa : Nat
  /-- `TX_BIT(0)`. -/
  txBit0 : Nat
  /-- `TX_BIT(1)`. -/
  txBit1 : Nat
  txStop : Nat
  txPost : Nat
  ovfGap : Nat
  /-- `P_LATCH_DISARMED`. -/
  pLatchDisarmed : Bool
  /-- `EXT_IRQ`: decided `false` (D18); the `true` option is kept (R35). -/
  extIrq : Bool
  deriving DecidableEq, Repr

/-- The calibration table of TC (95_test_vectors.md section 0): fictional, made up by the spec for testing. -/
def Config.tcTable : List CalRow :=
  [⟨9600, 12, 25, 25, 25⟩, ⟨4800, 24, 50, 50, 50⟩, ⟨2400, 50, 100, 100, 0⟩, ⟨300, 0, 0, 0, 7⟩, ⟨9600, 1, 1, 1, 1⟩]

/-- The test configuration TC of 95_test_vectors.md section 0. DESIGN CHOICE (log 1): `State.reset` carries it, because
the spec gives no other complete configuration. -/
def Config.tc : Params where
  fCpu := 960000
  calTable := Config.tcTable
  k := 4
  startAdj := 0
  c := 4
  callPre := 0
  eRx := 0
  rxOc := 0
  rxOb := 0
  rxOs := 0
  rxOcm := 0
  rxXr := 0
  rxXa := 0
  txBit0 := 0
  txBit1 := 0
  txStop := 0
  txPost := 0
  ovfGap := 1
  pLatchDisarmed := false
  extIrq := false

end Sys2Proof
end

