-- ==== Sys2Proof/Machine/State.lean ====
section
/-! DEFINITION. The state of the block (10_state.md R16 to R31), the item lists its contexts hold (00_scope.md R11), the
reasons a run stops (60_exceptions.md R121, R122) and the state after reset (70_reset_and_hazards.md R135). -/

namespace Sys2Proof.Machine

/-- Why the machine stops with a fault (60_exceptions.md R121). -/
inductive Fault where
  /-- F_DELAY_RANGE. Raised by WRITE when `txDelay + START_ADJ > 2^W - 1` (44 R116). Safe: the spec's own fault. -/
  | delayRange
  /-- The model's own (log 6). Raised by READ, PEEK and the commit for a slot outside `0..C-1`, which 20_memory.md R51
  says cannot be written down. Safe: no state of a run reaches it. -/
  | slotRange
  deriving DecidableEq, Repr

/-- Why the machine gives no meaning (60_exceptions.md R122). -/
inductive Refusal where
  /-- R_RESERVED. Raised by command fetch for a reserved word (30 R66). Safe: the spec's own refusal. -/
  | reserved (w : Word)
  /-- R_CONFIG. Raised by instantiation and by every step for a configuration that is not well formed (00 R7). Safe:
  the spec's own refusal. -/
  | config
  /-- An instruction without a meaning yet, by its mnemonic. Raised by no arm of `exec`. Safe. -/
  | notModelled (mnemonic : String)
  deriving DecidableEq, Repr

/-- The handler's phase (10_state.md R30, 42 R94). -/
inductive Phase where
  | idle
  | startCandidate
  | sampling (i : Fin 8)
  | stopGuard
  | committed
  deriving DecidableEq, Repr

/-- The tick counts `delay(n)` is called with: a timing register, or WRITE's `txDelay + START_ADJ`. -/
inductive TickSource where
  | rxCenter
  | rxIntra
  | rxStop
  | txDelay
  | startBit
  deriving DecidableEq, Repr

/-- An item list (00_scope.md R11): actions, waits, delays, and the conditionals that stand for the list they unfold to,
whose condition is evaluated when the unfolding reaches it. `α` names the context's actions, `κ` its conditions. -/
inductive Code (α κ : Type) where
  /-- The empty list. -/
  | done
  /-- `wait(cycles)`, then the rest. -/
  | wait (cycles : Nat) (rest : Code α κ)
  /-- `delay(n)` with `n` read when it is reached (41 R80), then the rest. -/
  | delay (n : TickSource) (rest : Code α κ)
  /-- `act { ... }`, then the rest. -/
  | act (a : α) (rest : Code α κ)
  /-- `if condition then yes else no`. -/
  | test (condition : κ) (yes no : Code α κ)
  /-- `raise Fault(reason)`. -/
  | raise (reason : Fault)
  deriving DecidableEq, Repr

/-- The actions of the handler's item list (42 R87), in its order. -/
inductive HandlerAct where
  /-- `lvl <- rx@now; if lvl = 0: h_phase <- Sampling(0)`. -/
  | startCheck
  /-- `acc[i] <- rx@now`, and the next phase. -/
  | sample (i : Fin 8)
  /-- `push(acc); h_phase <- Committed`. -/
  | commit
  /-- `h_phase <- Idle; RETURN`. -/
  | leave
  deriving DecidableEq, Repr

/-- The condition of the handler's item list: `lvl = 1`. -/
inductive HandlerTest where
  | lineHigh
  deriving DecidableEq, Repr

/-- The actions of the commands' item lists (files 30, 40, 43 and 44). -/
inductive FgAct where
  /-- BEGIN's critical section (40 R72). -/
  | install (baud : Nat)
  /-- `gie <- 1`: BEGIN's last action, and SEI. -/
  | enableInterrupts
  /-- `gie <- 0`: CLI. -/
  | disableInterrupts
  /-- END's `armed <- 0`. -/
  | disarm
  /-- FLUSH's critical section. -/
  | resetIndices
  /-- AVAILABLE's `response <- count()`. -/
  | respondCount
  /-- READ's action. -/
  | respondPop
  /-- PEEK's action. -/
  | respondPeek
  /-- OVERFLOWED's `r <- ovf`. -/
  | readOverflow
  /-- OVERFLOWED's `ovf <- 0; response <- zext_16(r)`. -/
  | clearOverflow
  /-- WRITE's `s <- gie; gie <- 0; tx <- 0`. -/
  | startBit
  /-- WRITE's `tx <- b[i]`. -/
  | dataBit (level : Bit)
  /-- WRITE's `tx <- 1; gie <- s`. -/
  | stopBit
  /-- WRITE's `response <- 0` and `response <- 1`. -/
  | respond (value : Response)
  deriving DecidableEq, Repr

/-- The conditions of the commands' item lists. -/
inductive FgTest where
  /-- BEGIN's `row != none`. -/
  | rowFound
  /-- WRITE's `txDelay = 0`. -/
  | unconfigured
  /-- WRITE's `txDelay + START_ADJ > 2^W - 1`. -/
  | startTooLong
  deriving DecidableEq, Repr

/-- The handler's item list. -/
abbrev HandlerCode := Code HandlerAct HandlerTest

/-- A command's item list. -/
abbrev FgCode := Code FgAct FgTest

/-- The RX waveform, an input of the step (10_state.md R36, R38; log 2). -/
inductive Line where
  /-- The level changes `(cycle, level)` in time order; the idle level 1 before the first. -/
  | wave (changes : List (Nat × Bit))
  /-- RX wired to the block's own TX through one cycle of wire: `rx@t = tx_out(t-1)`, `rx@0 = 1` (44 R117, D23). -/
  | loopback
  deriving DecidableEq, Repr

/-- The ring buffer's slots (20_memory.md R42): (slot, byte) pairs in the canonical form `Memory.wf`. A slot not listed
reads as `Memory.unlisted`. -/
abbrev Memory := List Host.Cell

/-- The state of 10_state.md R16, and the parameters and inputs of R38 (fields `cfg` to `foreign`, which no step changes;
log 1, log 2). -/
structure State where
  /-- The parameters (00_scope.md R6). -/
  cfg : Params
  /-- The RX waveform. -/
  line : Line
  /-- The host command stream. -/
  stream : List Word
  /-- The cycles drawn for interrupt sources outside the block (R35). -/
  foreign : List Nat
  /-- The current cycle number (R10). -/
  now : Nat
  /-- R17. -/
  rxCenter : Ticks
  /-- R18. -/
  rxIntra : Ticks
  /-- R19. -/
  rxStop : Ticks
  /-- R20. -/
  txDelay : Ticks
  /-- R21. -/
  head : Byte
  /-- R22. -/
  tail : Byte
  /-- R23. -/
  buf : Memory
  /-- R24. -/
  ovf : Bit
  /-- R25. -/
  armed : Bit
  /-- R26. -/
  gie : Bit
  /-- R27. -/
  pending : Bit
  /-- R28. -/
  tx : Bit
  /-- `rx_prev`, R29. -/
  rxPrev : Bit
  /-- `h_active`, R30. -/
  hActive : Bit
  /-- `h_phase`, R30. -/
  hPhase : Phase
  /-- R30. -/
  acc : Byte
  /-- `h_saved`, R30. -/
  hSaved : Bit
  /-- The local `lvl` of the handler's item list (42 R87). -/
  hLvl : Bit
  /-- `h_items`, R30. -/
  hItems : HandlerCode
  /-- The command stream position, R31. -/
  cp : Nat
  /-- `fg_items`, R31. -/
  fgItems : FgCode
  /-- The local `s` of the command in progress, R31. -/
  sGie : Bit
  /-- The local `r` of the command in progress, R31. -/
  rOvf : Bit
  /-- The local `row` of the command in progress, R31. -/
  row : Option CalRow
  /-- The response of the command in progress, none until an action sets it (R33). -/
  response : Option Response
  /-- The response of the most recently completed command that has one, R31. -/
  resp : Option Response
  deriving DecidableEq, Repr

/-- The state after reset (70_reset_and_hazards.md R135), with the idle line (so `rx@0 = 1`), an empty command stream and
the configuration TC (log 1, log 2). DESIGN CHOICE values: `buf`, `acc`, `hSaved`, `hLvl` and the command's locals
(log 3, log 4, log 5). -/
def State.reset : State where
  cfg := Config.tc
  line := .wave []
  stream := []
  foreign := []
  now := 0
  rxCenter := 0
  rxIntra := 0
  rxStop := 0
  txDelay := 0
  head := 0
  tail := 0
  buf := []
  ovf := false
  armed := false
  gie := false
  pending := false
  tx := true
  rxPrev := true
  hActive := false
  hPhase := .idle
  acc := 0
  hSaved := false
  hLvl := false
  hItems := .done
  cp := 0
  fgItems := .done
  sGie := false
  rOvf := false
  row := none
  response := none
  resp := none

end Sys2Proof.Machine
end

