-- ==== Sys2Proof/Machine/Ops.lean ====
section
/-! DEFINITION. The named operations over the state: the slot memory (20_memory.md R41 to R43), the RX input, critical
sections (R57), taking the pin-change interrupt and returning from it (60_exceptions.md R123, R124), and advancing a
context by one cycle (00_scope.md R12). -/

namespace Sys2Proof.Machine

/-- What a slot that is not listed reads as: DESIGN CHOICE 0 (log 3). -/
def Memory.unlisted : Byte := 0

/-- Slot `a`'s byte. -/
def Memory.read : Memory → Nat → Byte
  | [], _ => Memory.unlisted
  | (b, v) :: rest, a => if a = b then v else Memory.read rest a

/-- Store `v` in slot `a`, keeping the canonical form: the entry goes to its place in the order, and is removed when
`v` is what an unlisted slot reads as. -/
def Memory.write : Memory → Nat → Byte → Memory
  | [], a, v => if v = Memory.unlisted then [] else [(a, v)]
  | (b, w) :: rest, a, v =>
    if a < b then
      if v = Memory.unlisted then (b, w) :: rest else (a, v) :: (b, w) :: rest
    else if a = b then
      if v = Memory.unlisted then rest else (a, v) :: rest
    else (b, w) :: Memory.write rest a v

/-- Every listed slot is above `a`. -/
def Memory.above (a : Nat) : Memory → Bool
  | [] => true
  | (b, _) :: _ => decide (a < b)

/-- The canonical form: slots strictly rising, no entry equal to what an unlisted slot reads as. -/
def Memory.wf : Memory → Bool
  | [] => true
  | (a, v) :: rest => decide (v ≠ Memory.unlisted) && Memory.above a rest && Memory.wf rest

/-- Every listed slot is one of `0..c-1` (R42). -/
def Memory.within (c : Nat) : Memory → Bool
  | [] => true
  | (a, _) :: rest => decide (a < c) && Memory.within c rest

/-- The level a list of changes gives cycle `t`: that of the last change at or before `t` in the list's order, `level`
before the first. -/
def levelAt : List (Nat × Bit) → Bit → Nat → Bit
  | [], level, _ => level
  | (t0, l) :: rest, level, t => if t0 ≤ t then levelAt rest l t else levelAt rest level t

/-- `rx@t` (R10), for `t` not before the current cycle: of a waveform its level; of the loopback the level TX has had
since the end of the cycle before (D23). -/
def State.rxAt (s : State) (t : Nat) : Bit :=
  match s.line with
  | .wave changes => levelAt changes true t
  | .loopback => s.tx

/-- `rx@now`. -/
def State.rxNow (s : State) : Bit := s.rxAt s.now

/-- `now <- t + 1` (R33). -/
def State.tick (s : State) : State := { s with now := s.now + 1 }

/-- A critical section opens: `s <- gie; gie <- 0` (R57). -/
def State.enterCritical (s : State) : State := { s with sGie := s.gie, gie := false }

/-- A critical section closes: `gie <- s` (R57). -/
def State.leaveCritical (s : State) : State := { s with gie := s.sGie }

/-- Taking the pin-change interrupt: `dispatch(t_d)` of 60_exceptions.md R123, with the handler's item list. -/
def State.dispatch (items : HandlerCode) (s : State) : State :=
  { s with
    pending := false
    hSaved := s.gie
    gie := false
    hActive := true
    hPhase := .startCandidate
    hItems := items }

/-- Returning from it: `RETURN` of 42 R87 and 60 R124. -/
def State.handlerReturn (s : State) : State := { s with gie := s.hSaved, hActive := false }

/-- Whether a list is empty. -/
def Code.isDone {α κ : Type} : Code α κ → Bool
  | .done => true
  | .wait _ _ => false
  | .delay _ _ => false
  | .act _ _ => false
  | .test _ _ _ => false
  | .raise _ => false

/-- The list with `wait(n)` at its head, a `wait(0)` popped (R12). -/
def Code.waitThen {α κ : Type} (n : Nat) (rest : Code α κ) : Code α κ :=
  match n with
  | 0 => rest
  | n + 1 => .wait (n + 1) rest

/-- The value of a tick count, an exact natural number (R9, 41 R80). -/
def State.ticks (s : State) : TickSource → Nat
  | .rxCenter => s.rxCenter.toNat
  | .rxIntra => s.rxIntra.toNat
  | .rxStop => s.rxStop.toNat
  | .txDelay => s.txDelay.toNat
  | .startBit => s.txDelay.toNat + s.cfg.startAdj

/-- `delay(n)` is `wait(n * K)` (R11, 41 R80): its cycles. -/
def State.delayCycles (s : State) (n : TickSource) : Nat := s.ticks n * s.cfg.k

/-- `advance(ctx, t)` of R12: actions run in this cycle and are popped, a `wait(0)` is popped, and the cycle ends in a
wait that keeps its remaining count, or when the list is empty. The state and the remaining list, or the fault an
action or a `raise` gave. -/
def advance {α κ : Type} (run : α → State → Except Fault State) (holds : κ → State → Bool) :
    Code α κ → State → Except Fault (State × Code α κ)
  | .done, s => .ok (s, .done)
  | .wait n rest, s =>
    match n with
    | 0 => advance run holds rest s
    | n + 1 => .ok (s, Code.waitThen n rest)
  | .delay d rest, s =>
    match s.delayCycles d with
    | 0 => advance run holds rest s
    | n + 1 => .ok (s, Code.waitThen n rest)
  | .act a rest, s =>
    match run a s with
    | .ok t => advance run holds rest t
    | .error f => .error f
  | .test c yes no, s => if holds c s then advance run holds yes s else advance run holds no s
  | .raise f, _ => .error f

/-- The state after reset for any parameters and inputs (R135): the reset values with `rx_prev = rx@0`. -/
def State.resetWith (cfg : Params) (line : Line) (stream : List Word) (foreign : List Nat) : State :=
  let s := { State.reset with cfg := cfg, line := line, stream := stream, foreign := foreign }
  { s with rxPrev := s.rxAt 0 }

/-- `s` with the command word `w` in the host stream at the position the foreground fetches next. -/
def placeWord (s : State) (w : Word) : State :=
  { s with
    stream := s.stream.take s.cp ++ List.replicate (s.cp - s.stream.length) 0 ++ w :: s.stream.drop (s.cp + 1) }

/-- `s` at a point where its next cycle is the foreground's, with no command in progress: the handler idle, no pin
change latched or seen at this cycle, and this cycle not drawn for a foreign handler. -/
def readyToFetch (s : State) : State :=
  { s with
    fgItems := .done
    hActive := false
    hPhase := .idle
    hItems := .done
    pending := false
    rxPrev := s.rxNow
    foreign := s.foreign.filter (fun t => t != s.now) }

end Sys2Proof.Machine
end

