-- ==== Sys2Proof/Machine/Operands.lean ====
section
/-! DEFINITION. Operand and result forms: index arithmetic mod C (43_ring_buffer.md R99 to R101), bits of a byte (R9),
response words (30_encoding.md R67), and the calibration table's well-formedness and lookup (R7, R47, R73). -/

namespace Sys2Proof

/-- `2^W - 1` with `W = 16` (R6). -/
def Config.maxTicks : Nat := 2 ^ 16 - 1

/-- A row is well formed (20_memory.md R47). -/
def CalRow.wf (r : CalRow) : Bool :=
  decide (1 ≤ r.baud) && decide (r.baud ≤ 2 ^ 28 - 1) && decide (r.center ≤ Config.maxTicks) &&
    decide (r.intra ≤ Config.maxTicks) && decide (r.stop ≤ Config.maxTicks) && decide (r.tx ≤ Config.maxTicks)

/-- The powers of two from 2 to 256 (R7). -/
def Config.capacities : List Nat := [2, 4, 8, 16, 32, 64, 128, 256]

/-- The configuration is well formed (00_scope.md R7). -/
def Params.wf (p : Params) : Bool :=
  decide (1 ≤ p.k) && Config.capacities.contains p.c && decide (1 ≤ p.ovfGap) && p.calTable.all CalRow.wf

/-- `TX_BIT(v)` (R6). -/
def Params.txBit (p : Params) (v : Bit) : Nat := if v then p.txBit1 else p.txBit0

/-- The ideal profile: every latency 0 and `OVF_GAP` 1 (R8). -/
def Params.ideal (p : Params) : Bool :=
  decide (p.callPre = 0) && decide (p.eRx = 0) && decide (p.rxOc = 0) && decide (p.rxOb = 0) && decide (p.rxOs = 0) &&
    decide (p.rxOcm = 0) && decide (p.rxXr = 0) && decide (p.rxXa = 0) && decide (p.txBit0 = 0) &&
    decide (p.txBit1 = 0) && decide (p.txStop = 0) && decide (p.txPost = 0) && decide (p.ovfGap = 1)

/-- `lookup(baud)`: the first row of the table whose baud matches exactly (40 R73). -/
def lookupRow : List CalRow → Nat → Option CalRow
  | [], _ => none
  | r :: rest, baud => if r.baud = baud then some r else lookupRow rest baud

/-- `b[i]` (R9). -/
def Byte.bit (b : Byte) (i : Fin 8) : Bit := b.getLsbD i.val

/-- `b` with bit `i` set to `v`: "set/clear the corresponding bit" (42 R91). -/
def Byte.setBit (b : Byte) (i : Fin 8) (v : Bit) : Byte :=
  if v then b ||| ((1 : Byte) <<< i.val) else b &&& ~~~((1 : Byte) <<< i.val)

namespace Machine

/-- `for i in 0..7` (R11). -/
def bitIndices : List (Fin 8) := [0, 1, 2, 3, 4, 5, 6, 7]

/-- `(i + 1) mod C` (43 R100, R101). -/
def nextIndex (c : Nat) (i : Byte) : Byte := BitVec.ofNat 8 ((i.toNat + 1) % c)

/-- `count() = (tail - head) mod C` on mathematical integers (43 R99, R9). -/
def occupancy (c : Nat) (head tail : Byte) : Nat := (((tail.toNat : Int) - (head.toNat : Int)) % (c : Int)).toNat

/-- The response word of a count or of a byte: zero-extended (R67). -/
def Response.ofNat (n : Nat) : Response := BitVec.ofNat 16 n

/-- The response -1 of an empty READ or PEEK, two's complement (R67). -/
def Response.minusOne : Response := BitVec.ofInt 16 (-1)

/-- READ's and PEEK's response (R67): the byte zero-extended, or -1. -/
def Response.ofByte? : Option Byte → Response
  | some b => b.zeroExtend 16
  | none => Response.minusOne

/-- OVERFLOWED's response (R67). -/
def Response.ofBit (v : Bit) : Response := if v then 1 else 0

end Machine

end Sys2Proof
end

