-- ==== Sys2Proof/Machine/Flags.lean ====
section
/-! DEFINITION. The status bits and the conditions read from them (10_state.md R40): edge detection and the dispatch test
(R33, R34), empty and full (20_memory.md R43), configured (R15), a foreign cycle (R35). -/

namespace Sys2Proof.Machine

/-- `edge_detect(t)` (10_state.md R34): either direction of change sets `pending` while armed, or always if
`P_LATCH_DISARMED`. -/
def State.edgeDetect (s : State) : State :=
  { s with
    pending := s.pending || (s.rxNow != s.rxPrev && (s.armed || s.cfg.pLatchDisarmed))
    rxPrev := s.rxNow }

/-- The dispatch test of R33, for a handler that is not active. -/
def State.dispatchable (s : State) : Bool := s.pending && s.armed && s.gie

/-- The foreign-cycle test of R33 and R35. -/
def State.foreignCycle (s : State) : Bool := s.cfg.extIrq && s.gie && s.foreign.contains s.now

/-- `empty = (head = tail)` (R43). -/
def State.isEmpty (s : State) : Bool := decide (s.head = s.tail)

/-- `full = ((tail + 1) mod C = head)` (R43). -/
def State.isFull (s : State) : Bool := decide (nextIndex s.cfg.c s.tail = s.head)

/-- "configured (`txDelay` ≠ 0)" (R15). -/
def State.isConfigured (s : State) : Bool := decide (s.txDelay ≠ 0)

/-- WRITE's start count does not fit `W` bits (44 R116). -/
def State.startTooLong (s : State) : Bool := decide (s.ticks .startBit > Config.maxTicks)

end Sys2Proof.Machine
end

