-- ==== Sys2Proof/Machine/Buffer.lean ====
section
/-! DEFINITION. The ring buffer's internal operations (43_ring_buffer.md R99 to R102). A slot outside `0..C-1` faults
(log 6). -/

namespace Sys2Proof.Machine

/-- `MemRead(i, 1)` (R10). -/
def State.readSlot (s : State) (i : Byte) : Except Fault Byte :=
  if i.toNat < s.cfg.c then .ok (s.buf.read i.toNat) else .error .slotRange

/-- `MemWrite(i, 1, v)` (R10). -/
def State.writeSlot (s : State) (i : Byte) (v : Byte) : Except Fault State :=
  if i.toNat < s.cfg.c then .ok { s with buf := s.buf.write i.toNat v } else .error .slotRange

/-- `count()` (R99). -/
def State.count (s : State) : Nat := occupancy s.cfg.c s.head s.tail

/-- `peekFront()` (R102). -/
def State.peekFront (s : State) : Except Fault (Option Byte) :=
  if s.isEmpty then .ok none
  else
    match s.readSlot s.head with
    | .ok v => .ok (some v)
    | .error f => .error f

/-- `pop()` (R100): the byte, and the state with `head` advanced; nothing changes when empty. -/
def State.pop (s : State) : Except Fault (Option Byte × State) :=
  if s.isEmpty then .ok (none, s)
  else
    match s.readSlot s.head with
    | .ok v => .ok (some v, { s with head := nextIndex s.cfg.c s.head })
    | .error f => .error f

/-- `push(v)` (R101): whether the byte was stored, and the state. -/
def State.push (s : State) (v : Byte) : Except Fault (Bool × State) :=
  if s.isFull then .ok (false, { s with ovf := true })
  else
    match s.writeSlot s.tail v with
    | .ok t => .ok (true, { t with tail := nextIndex s.cfg.c s.tail })
    | .error f => .error f

end Sys2Proof.Machine
end

