-- ==== Sys2Proof/Machine/Foreground.lean ====
section
/-! DEFINITION. The foreground context: the actions of the commands' item lists, the foreground's cycle, a command's
fetch cycle (10_state.md R33), and further cycles of the foreground alone. -/

namespace Sys2Proof.Machine

/-- BEGIN's timing registers for a lookup result: the row's delays, or zero (40 R72). -/
def State.installTiming (s : State) : Option CalRow → State
  | some r =>
    { s with
      rxCenter := BitVec.ofNat 16 r.center
      rxIntra := BitVec.ofNat 16 r.intra
      rxStop := BitVec.ofNat 16 r.stop
      txDelay := BitVec.ofNat 16 r.tx
      armed := true }
  | none => s

/-- BEGIN's first action without its critical section: zero the timing, reset the buffer, disarm, look up, and install
and arm on a match (40 R72). -/
def State.beginSession (s : State) (baud : Nat) : State :=
  let r := lookupRow s.cfg.calTable baud
  State.installTiming
    { s with
      rxCenter := 0
      rxIntra := 0
      rxStop := 0
      txDelay := 0
      head := 0
      tail := 0
      ovf := false
      armed := false
      row := r }
    r

/-- FLUSH's dual-index reset (43 R106). -/
def State.resetIndices (s : State) : State := { s with head := 0, tail := 0 }

/-- `response <- v`. -/
def State.respond (s : State) (v : Response) : State := { s with response := some v }

/-- READ's action (43 R104). -/
def State.respondPop (s : State) : Except Fault State :=
  match s.pop with
  | .ok (o, t) => .ok (t.respond (Response.ofByte? o))
  | .error f => .error f

/-- PEEK's action (43 R105). -/
def State.respondPeek (s : State) : Except Fault State :=
  match s.peekFront with
  | .ok o => .ok (s.respond (Response.ofByte? o))
  | .error f => .error f

/-- The foreground's actions (files 30, 40, 43, 44). -/
def runFgAct : FgAct → State → Except Fault State
  | .install baud, s => .ok (s.enterCritical.beginSession baud).leaveCritical
  | .enableInterrupts, s => .ok { s with gie := true }
  | .disableInterrupts, s => .ok { s with gie := false }
  | .disarm, s => .ok { s with armed := false }
  | .resetIndices, s => .ok s.enterCritical.resetIndices.leaveCritical
  | .respondCount, s => .ok (s.respond (Response.ofNat s.count))
  | .respondPop, s => s.respondPop
  | .respondPeek, s => s.respondPeek
  | .readOverflow, s => .ok { s with rOvf := s.ovf }
  | .clearOverflow, s => .ok ({ s with ovf := false }.respond (Response.ofBit s.rOvf))
  | .startBit, s => .ok { s.enterCritical with tx := false }
  | .dataBit level, s => .ok { s with tx := level }
  | .stopBit, s => .ok { s with tx := true }.leaveCritical
  | .respond value, s => .ok (s.respond value)

/-- The foreground's conditions (40 R72, 44 R111). -/
def fgHolds : FgTest → State → Bool
  | .rowFound, s => s.row.isSome
  | .unconfigured, s => !s.isConfigured
  | .startTooLong, s => s.startTooLong

/-- "if fg_items is now empty and the command has a response: resp <- its response" (R33). -/
def State.complete (s : State) : State :=
  if s.fgItems.isDone then
    match s.response with
    | some v => { s with resp := some v, response := none }
    | none => s
  else s

/-- One cycle of the foreground in a command (R33: `advance(foreground, t)` and the command's end). -/
def State.resumeFg (s : State) : Host.Outcome State Fault Refusal :=
  match advance runFgAct fgHolds s.fgItems s with
  | .ok (t, rest) => .next { t with fgItems := rest }.complete
  | .error f => .fault f

/-- A command's fetch cycle: its items are built and the foreground advances in the same cycle (R33). -/
def State.startCommand (items : FgCode) (s : State) : Host.Outcome State Fault Refusal :=
  State.resumeFg { s with fgItems := items, response := none }

/-- `n` further cycles of the foreground with nothing else taking a cycle. For claims about a whole command; `step` does
not call it. -/
def State.fgCycles : Nat → State → Host.Outcome State Fault Refusal
  | 0, s => .next s
  | n + 1, s =>
    match s.resumeFg with
    | .next t => State.fgCycles n t
    | .fault f => .fault f
    | .refused r => .refused r

end Sys2Proof.Machine
end

