-- ==== Sys2Proof/Machine/Accessors.lean ====
section
/-! DEFINITION. AVAILABLE, READ, PEEK, FLUSH and OVERFLOWED (43_ring_buffer.md R103 to R108). -/

namespace Sys2Proof.Machine

/-- `items(AVAILABLE)` (R103). -/
def itemsAvailable (p : Params) : FgCode := .wait p.callPre <| .act .respondCount .done

/-- `items(READ)` (R104). -/
def itemsRead (p : Params) : FgCode := .wait p.callPre <| .act .respondPop .done

/-- `items(PEEK)` (R105). -/
def itemsPeek (p : Params) : FgCode := .wait p.callPre <| .act .respondPeek .done

/-- `items(FLUSH)` (R106). -/
def itemsFlush (p : Params) : FgCode := .wait p.callPre <| .act .resetIndices .done

/-- `items(OVERFLOWED)` (R107): two actions, `OVF_GAP` cycles apart. -/
def itemsOverflowed (p : Params) : FgCode :=
  .wait p.callPre <| .act .readOverflow <| .wait p.ovfGap <| .act .clearOverflow .done

/-- AVAILABLE. -/
def execAvailable (s : State) : Host.Outcome State Fault Refusal := s.startCommand (itemsAvailable s.cfg)

/-- READ. -/
def execRead (s : State) : Host.Outcome State Fault Refusal := s.startCommand (itemsRead s.cfg)

/-- PEEK. -/
def execPeek (s : State) : Host.Outcome State Fault Refusal := s.startCommand (itemsPeek s.cfg)

/-- FLUSH. -/
def execFlush (s : State) : Host.Outcome State Fault Refusal := s.startCommand (itemsFlush s.cfg)

/-- OVERFLOWED. -/
def execOverflowed (s : State) : Host.Outcome State Fault Refusal := s.startCommand (itemsOverflowed s.cfg)

end Sys2Proof.Machine
end

