-- ==== Sys2Proof/Machine/Harness.lean ====
section
/-! DEFINITION. The harness words IDLE, SEI and CLI (30_encoding.md R68). -/

namespace Sys2Proof.Machine

/-- `wait(n)` (R68). -/
def itemsIdle (n : Nat) : FgCode := .wait n .done

/-- `act { gie <- 1 }` (R68). -/
def itemsSei : FgCode := .act .enableInterrupts .done

/-- `act { gie <- 0 }` (R68). -/
def itemsCli : FgCode := .act .disableInterrupts .done

/-- IDLE. -/
def execIdle (n : Nat) (s : State) : Host.Outcome State Fault Refusal := s.startCommand (itemsIdle n)

/-- SEI. -/
def execSei (s : State) : Host.Outcome State Fault Refusal := s.startCommand itemsSei

/-- CLI. -/
def execCli (s : State) : Host.Outcome State Fault Refusal := s.startCommand itemsCli

end Sys2Proof.Machine
end

