-- ==== Sys2Proof/Machine/Lifecycle.lean ====
section
/-! DEFINITION. BEGIN and END (40_calibration_begin.md R72 to R79). -/

namespace Sys2Proof.Machine

/-- `items(BEGIN baud)` (R72). -/
def itemsBegin (p : Params) (baud : Nat) : FgCode :=
  .wait p.callPre <| .act (.install baud) <|
    .test .rowFound (.delay .txDelay <| .act .enableInterrupts .done) .done

/-- `items(END)` (R78). -/
def itemsEnd (p : Params) : FgCode := .wait p.callPre <| .act .disarm .done

/-- BEGIN. -/
def execBegin (baud : Nat) (s : State) : Host.Outcome State Fault Refusal :=
  s.startCommand (itemsBegin s.cfg baud)

/-- END. -/
def execEnd (s : State) : Host.Outcome State Fault Refusal := s.startCommand (itemsEnd s.cfg)

end Sys2Proof.Machine
end

