-- ==== Sys2Proof/Machine/Transmit.lean ====
section
/-! DEFINITION. WRITE (44_transmit.md R111 to R118). -/

namespace Sys2Proof.Machine

/-- The part of WRITE's list after the data bits (R111). -/
def stopBitItems (p : Params) : FgCode :=
  .wait p.txStop <| .act .stopBit <| .delay .txDelay <| .wait p.txPost <| .act (.respond 1) .done

/-- The data bits of WRITE's list for the indices `is`, before the stop bit (R111). -/
def dataBitItems (p : Params) (byte : Byte) (is : List (Fin 8)) : FgCode :=
  is.foldr
    (fun i rest => .wait (p.txBit (byte.bit i)) <| .act (.dataBit (byte.bit i)) <| .delay .txDelay rest)
    (stopBitItems p)

/-- `items(WRITE b)` (R111). -/
def itemsWrite (p : Params) (byte : Byte) : FgCode :=
  .wait p.callPre <|
    .test .unconfigured (.act (.respond 0) .done) <|
      .test .startTooLong (.raise .delayRange) <|
        .act .startBit <| .delay .startBit <| dataBitItems p byte bitIndices

/-- WRITE. -/
def execWrite (byte : Byte) (s : State) : Host.Outcome State Fault Refusal :=
  s.startCommand (itemsWrite s.cfg byte)

end Sys2Proof.Machine
end

