-- ==== Sys2Proof/Machine/Dispatch.lean ====
section
/-! DEFINITION. A command's fetch cycle (10_state.md R33), one arm per constructor of Instr. -/

namespace Sys2Proof.Machine

def exec (i : Instr) (s : State) : Host.Outcome State Fault Refusal :=
  match i with
  | .beginBaud baud => Sys2Proof.Machine.execBegin baud s
  | .endSession => Sys2Proof.Machine.execEnd s
  | .flush => Sys2Proof.Machine.execFlush s
  | .available => Sys2Proof.Machine.execAvailable s
  | .read => Sys2Proof.Machine.execRead s
  | .peek => Sys2Proof.Machine.execPeek s
  | .write byte => Sys2Proof.Machine.execWrite byte s
  | .overflowed => Sys2Proof.Machine.execOverflowed s
  | .idle n => Sys2Proof.Machine.execIdle n s
  | .sei => Sys2Proof.Machine.execSei s
  | .cli => Sys2Proof.Machine.execCli s

end Sys2Proof.Machine
end

