-- ==== Sys2Proof/Machine/Receive.lean ====
section
/-! DEFINITION. The receive engine (42_receive.md R87 to R98): the handler's item list, its actions, and the handler's
cycle. -/

namespace Sys2Proof.Machine

/-- The phase after the sample of bit `i` (R87, R94). -/
def phaseAfterSample (i : Fin 8) : Phase :=
  if h : i.val < 7 then .sampling ⟨i.val + 1, by omega⟩ else .stopGuard

/-- The start-bit check (R87, R88). -/
def State.startCheck (s : State) : State :=
  let lvl := s.rxNow
  { s with hLvl := lvl, hPhase := if lvl then s.hPhase else .sampling 0 }

/-- The sample of data bit `i` (R87, R91). -/
def State.sampleBit (s : State) (i : Fin 8) : State :=
  { s with acc := s.acc.setBit i s.rxNow, hPhase := phaseAfterSample i }

/-- The commit (R87, R93). -/
def State.commit (s : State) : Except Fault State :=
  match s.push s.acc with
  | .ok (_, t) => .ok { t with hPhase := .committed }
  | .error f => .error f

/-- The handler's actions (R87). -/
def runHandlerAct : HandlerAct → State → Except Fault State
  | .startCheck, s => .ok s.startCheck
  | .sample i, s => .ok (s.sampleBit i)
  | .commit, s => s.commit
  | .leave, s => .ok { s with hPhase := .idle }.handlerReturn

/-- The handler's condition (R87). -/
def handlerHolds : HandlerTest → State → Bool
  | .lineHigh, s => s.hLvl

/-- The part of RX_ITEMS after a low start-bit check from the stop guard on (R87, R92, R93). -/
def stopItems (p : Params) : HandlerCode :=
  .wait p.rxOs <| .delay .rxStop <| .wait p.rxOcm <| .act .commit <| .wait p.rxXr <| .act .leave .done

/-- The data bits of RX_ITEMS for the indices `is`, before the stop guard (R87, R90). -/
def sampleItems (p : Params) (is : List (Fin 8)) : HandlerCode :=
  is.foldr (fun i rest => .delay .rxIntra <| .wait p.rxOb <| .act (.sample i) rest) (stopItems p)

/-- RX_ITEMS (R87). -/
def rxItems (p : Params) : HandlerCode :=
  .wait p.eRx <| .act .startCheck <|
    .test .lineHigh (.wait p.rxXa <| .act .leave .done)
      (.wait p.rxOc <| .delay .rxCenter <| sampleItems p bitIndices)

/-- One cycle of the handler (R33: `advance(handler, t)`). -/
def State.advanceHandler (s : State) : Host.Outcome State Fault Refusal :=
  match advance runHandlerAct handlerHolds s.hItems s with
  | .ok (t, rest) => .next { t with hItems := rest }
  | .error f => .fault f

end Sys2Proof.Machine
end

