-- ==== Sys2Proof/Machine/Cycle.lean ====
section
/-! DEFINITION. The cycle step's parts (10_state.md R33): fetching a command, the foreground's cycle, and one cycle of the
machine. -/

namespace Sys2Proof.Machine

/-- `now <- t + 1` on a cycle that gave a next state. -/
def thenTick : Host.Outcome State Fault Refusal → Host.Outcome State Fault Refusal
  | .next s => .next s.tick
  | .fault f => .fault f
  | .refused r => .refused r

/-- `cp <- cp + 1` (R31, R33). -/
def State.takeCommand (s : State) : State := { s with cp := s.cp + 1 }

/-- Run a fetched word: its command's fetch cycle, or the refusal R_RESERVED (R66). -/
def State.runWord (s : State) (w : Word) : Host.Outcome State Fault Refusal :=
  match decode w with
  | .instr i => exec i s.takeCommand
  | .reserved w => .refused (.reserved w)

/-- `advance_fg(t)` (R33). -/
def State.advanceFg (s : State) : Host.Outcome State Fault Refusal :=
  if s.fgItems.isDone then
    match s.stream[s.cp]? with
    | some w => s.runWord w
    | none => .next s
  else s.resumeFg

/-- The context that takes the cycle, after edge detection (R33). -/
def State.runContexts (s : State) : Host.Outcome State Fault Refusal :=
  if s.hActive then s.advanceHandler
  else if s.dispatchable then (s.dispatch (rxItems s.cfg)).advanceHandler
  else if s.foreignCycle then .next s
  else s.advanceFg

/-- `step(t)` (R33) for a well-formed configuration. -/
def cycle (s : State) : Host.Outcome State Fault Refusal := thenTick s.edgeDetect.runContexts

/-- Instantiating the model (R7, R122): the state after reset, or the refusal R_CONFIG. -/
def instantiate (cfg : Params) (line : Line) (stream : List Word) (foreign : List Nat) :
    Host.Outcome State Fault Refusal :=
  if cfg.wf then .next (State.resetWith cfg line stream foreign) else .refused .config

end Sys2Proof.Machine
end

