-- ==== Sys2Proof/Machine/Step.lean ====
section
/-! DEFINITION. One step of the machine: one CPU clock cycle (10_state.md R33), refused when the configuration is not well
formed (00_scope.md R7). -/

namespace Sys2Proof.Machine

/-- One cycle. -/
def step (s : State) : Host.Outcome State Fault Refusal :=
  if s.cfg.wf then cycle s else .refused .config

/-- `s` with the instruction word `w` of `nbits` bits as the command the very next step fetches and runs (log 8): it
stands in the host stream at `cp`, and the next cycle is the foreground's with no command in progress. -/
def State.withFetchWord (s : State) (nbits w : Nat) : State :=
  readyToFetch (placeWord s (tableWord nbits w))

end Sys2Proof.Machine
end

