-- ==== Sys2Proof/Machine/Assembler.lean ====
section
/-! DEFINITION. The assembler of 30_encoding.md R69, over characters: one command per line, `;` to the end of the line is a
comment, numbers decimal or `0x` hexadecimal, an operand out of range refused. -/

namespace Sys2Proof.Machine

/-- What stands after a mnemonic: nothing, or one number (R69). -/
inductive OperandShape where
  | plain (i : Instr)
  | baud
  | byte
  | count
  deriving DecidableEq, Repr

/-- The mnemonics of R69. -/
def mnemonics : List (List Char × OperandShape) :=
  [(['B', 'E', 'G', 'I', 'N'], .baud),
   (['E', 'N', 'D'], .plain .endSession),
   (['F', 'L', 'U', 'S', 'H'], .plain .flush),
   (['A', 'V', 'A', 'I', 'L', 'A', 'B', 'L', 'E'], .plain .available),
   (['R', 'E', 'A', 'D'], .plain .read),
   (['P', 'E', 'E', 'K'], .plain .peek),
   (['W', 'R', 'I', 'T', 'E'], .byte),
   (['O', 'V', 'E', 'R', 'F', 'L', 'O', 'W', 'E', 'D'], .plain .overflowed),
   (['I', 'D', 'L', 'E'], .count),
   (['S', 'E', 'I'], .plain .sei),
   (['C', 'L', 'I'], .plain .cli)]

/-- The digit of a character in the given base, 10 or 16. -/
def digit (base : Nat) (ch : Char) : Option Nat :=
  let n := ch.toNat
  let d :=
    if 48 ≤ n ∧ n ≤ 57 then n - 48
    else if 97 ≤ n ∧ n ≤ 102 then n - 87
    else if 65 ≤ n ∧ n ≤ 70 then n - 55
    else base
  if d < base then some d else none

/-- The number a list of digits stands for, after the part `acc` already read. -/
def digits (base : Nat) : Nat → List Char → Option Nat
  | acc, [] => some acc
  | acc, ch :: rest =>
    match digit base ch with
    | some d => digits base (acc * base + d) rest
    | none => none

/-- A decimal or `0x` hexadecimal number (R69). -/
def number : List Char → Option Nat
  | [] => none
  | '0' :: 'x' :: ch :: rest => digits 16 0 (ch :: rest)
  | ch :: rest => digits 10 0 (ch :: rest)

/-- The blank-separated words of a line, `cur` being the word read so far, last character first. -/
def splitWords : List Char → List Char → List (List Char)
  | cur, [] => if cur.isEmpty then [] else [cur.reverse]
  | cur, ch :: rest =>
    if ch = ' ' ∨ ch = '\t' ∨ ch = '\r' then
      if cur.isEmpty then splitWords [] rest else cur.reverse :: splitWords [] rest
    else splitWords (ch :: cur) rest

/-- The lines of a text, `cur` being the line read so far, last character first. -/
def splitLines : List Char → List Char → List (List Char)
  | cur, [] => [cur.reverse]
  | cur, ch :: rest => if ch = '\n' then cur.reverse :: splitLines [] rest else splitLines (ch :: cur) rest

/-- The command of a mnemonic and its operand. -/
def parseCommand (shape : OperandShape) (operands : List (List Char)) : Option Instr :=
  match shape, operands with
  | .plain i, [] => some i
  | .baud, [n] => (number n).map .beginBaud
  | .byte, [n] =>
    match number n with
    | some b => if b < 256 then some (.write (BitVec.ofNat 8 b)) else none
    | none => none
  | .count, [n] => (number n).map .idle
  | _, _ => none

/-- A line's words: none for an empty or comment line, one for a command; `none` refuses the line. -/
def assembleLine (line : List Char) : Option (List Word) :=
  match splitWords [] (line.takeWhile fun ch => ch != ';') with
  | [] => some []
  | name :: operands =>
    match mnemonics.lookup name with
    | none => none
    | some shape =>
      match parseCommand shape operands with
      | none => none
      | some i => (assembleInstr i).map fun w => [w]

/-- The command words of a list of lines. -/
def assembleLines : List (List Char) → Option (List Word)
  | [] => some []
  | line :: rest =>
    match assembleLine line, assembleLines rest with
    | some ws, some more => some (ws ++ more)
    | _, _ => none

/-- The command words of a program text (R69). -/
def assemble (text : List Char) : Option (List Word) := assembleLines (splitLines [] text)

end Sys2Proof.Machine
end

