-- ==== Sys2Proof/Machine/Conditions.lean ====
section
/-! DEFINITION. The error conditions of 60_exceptions.md R120 and where each is raised. No register holds a code and no
condition transfers control (R119): these name the cases for claims. -/

namespace Sys2Proof.Machine

/-- The three conditions of R120. -/
inductive Condition where
  | unsupportedBaudRate
  | bufferOverflow
  | spuriousEdge
  deriving DecidableEq, Repr

/-- The spec's reference code (R120, D28). -/
def Condition.code : Condition → Nat
  | .unsupportedBaudRate => 1
  | .bufferOverflow => 2
  | .spuriousEdge => 3

/-- The condition BEGIN's install action raises (R120, 40 R76). -/
def State.beginCondition (s : State) (baud : Nat) : Option Condition :=
  if (lookupRow s.cfg.calTable baud).isNone then some .unsupportedBaudRate else none

/-- The condition the handler's commit raises (R120, 43 R101). -/
def State.commitCondition (s : State) : Option Condition := if s.isFull then some .bufferOverflow else none

/-- The condition the handler's start-bit check raises (R120, 42 R88). -/
def State.checkCondition (s : State) : Option Condition := if s.rxNow then some .spuriousEdge else none

end Sys2Proof.Machine
end

