-- ==== Sys2Proof/Machine/Timing.lean ====
section
/-! DEFINITION. The quantities the spec's timing rules compute from the parameters, for claims: the wire frame
(30_encoding.md R61), the transmitter's slots (44 R112), the receiver's instants (42 R90, R93, R95), the durations of
70_reset_and_hazards.md R147, and the bit periods of 00_scope.md R15. The cycle step does not call them. -/

namespace Sys2Proof.Machine

/-- `frame(x) = (1 << 9) | (x << 1)`, sent least significant bit first (R61). -/
def frameWord (x : Byte) : BitVec 10 := (1 : BitVec 10) <<< 9 ||| x.zeroExtend 10 <<< 1

/-- The level of slot `j` of the frame of `x` (R61): start 0, the data bits, stop 1; the idle level 1 after it. -/
def frameLevel (x : Byte) (j : Nat) : Bit := if j = 0 then false else if j ≤ 8 then x.getLsbD (j - 1) else true

/-- `D = txDelay * K` (R112). -/
def State.bitCycles (s : State) : Nat := s.delayCycles .txDelay

/-- The length of slot `j` of WRITE's frame, for `j` in 0..8 (R112). -/
def State.slotLength (s : State) (x : Byte) (j : Nat) : Nat :=
  if j = 0 then s.delayCycles .startBit + s.cfg.txBit (x.getLsbD 0)
  else if j < 8 then s.bitCycles + s.cfg.txBit (x.getLsbD j)
  else s.bitCycles + s.cfg.txStop

/-- The cycle slot `j` begins at, counted from the start-bit action (R112). -/
def State.slotStart (s : State) (x : Byte) : Nat → Nat
  | 0 => 0
  | j + 1 => s.slotStart x j + s.slotLength x j

/-- The cycles from fetch to the last action inclusive, with no preemption, of a command fetched in `s` (R147). -/
def State.duration (s : State) : Instr → Nat
  | .beginBaud baud =>
    match lookupRow s.cfg.calTable baud with
    | some r => s.cfg.callPre + r.tx * s.cfg.k + 1
    | none => s.cfg.callPre + 1
  | .endSession => s.cfg.callPre + 1
  | .flush => s.cfg.callPre + 1
  | .available => s.cfg.callPre + 1
  | .read => s.cfg.callPre + 1
  | .peek => s.cfg.callPre + 1
  | .write x =>
    if s.isConfigured then
      s.cfg.callPre + s.delayCycles .startBit + (bitIndices.map fun i => s.cfg.txBit (x.bit i)).sum + 9 * s.bitCycles +
        s.cfg.txStop + s.cfg.txPost + 1
    else s.cfg.callPre + 1
  | .overflowed => s.cfg.callPre + s.cfg.ovfGap + 1
  | .idle n => max n 1
  | .sei => 1
  | .cli => 1

/-- Command `i` from its fetch cycle and for `n` further cycles of the foreground, with nothing else taking a cycle. -/
def State.runCommand (i : Instr) (n : Nat) (s : State) : Host.Outcome State Fault Refusal :=
  match exec i s with
  | .next t => State.fgCycles n t
  | .fault f => .fault f
  | .refused r => .refused r

/-- The cycles from dispatch to the sample of data bit `i` (R90). -/
def State.sampleOffset (s : State) (i : Nat) : Nat :=
  s.cfg.eRx + s.cfg.rxOc + s.delayCycles .rxCenter + (i + 1) * (s.delayCycles .rxIntra + s.cfg.rxOb)

/-- The cycles from dispatch to the commit (R93). -/
def State.commitOffset (s : State) : Nat :=
  s.sampleOffset 7 + s.cfg.rxOs + s.delayCycles .rxStop + s.cfg.rxOcm

/-- The handler's cycles for a frame (R95, R147). -/
def State.frameDuration (s : State) : Nat := s.commitOffset + s.cfg.rxXr + 1

/-- The handler's cycles for a spurious edge (R95, R147). -/
def State.spuriousDuration (s : State) : Nat := s.cfg.eRx + s.cfg.rxXa + 1

/-- The byte a handler run dispatched at the current cycle samples: bit `i` is `rx` at `t_s(i)` (R90, R91). -/
def State.sampledByte (s : State) : Byte :=
  bitIndices.foldl (fun b i => b.setBit i (s.rxAt (s.now + s.sampleOffset i.val))) 0

/-- The receiver's bit period in cycles, `rxIntra * K + RX_OB` (R15). -/
def State.rxBitPeriod (s : State) : Nat := s.delayCycles .rxIntra + s.cfg.rxOb

/-- The transmitter's timing error for `baud`, `(txDelay*K + overhead - F_CPU/baud) / (F_CPU/baud)`, as numerator and
denominator over `F_CPU` (41 R86). For orientation only, PRESUMED: the spec marks the formula as general knowledge and
says that no rule depends on it (log 9). -/
def State.txTimingError (s : State) (baud overhead : Nat) : Int × Nat :=
  (((s.bitCycles + overhead) * baud : Nat) - (s.cfg.fCpu : Int), s.cfg.fCpu)

end Sys2Proof.Machine
end

