-- ==== Sys2Proof/Safety.lean ====
section
/-! DEFINITION. What claims are made in terms of: the invariant of 10_state.md R32 with the shape of the contexts' item
lists, reset states (R135), quiescence (R37), whose turn a cycle is (R33), the buffer's contents as a queue (R109), and
states that agree but for slots that are not occupied (R44). -/

namespace Sys2Proof.Machine

/-- `n` steps of the machine, stopping at a fault or a refusal. -/
def runSteps : Nat → State → Host.Outcome State Fault Refusal
  | 0, s => .next s
  | n + 1, s =>
    match step s with
    | .next t => runSteps n t
    | .fault f => .fault f
    | .refused r => .refused r

/-- The timing registers hold the row's delays (40 R72). -/
abbrev State.HoldsRow (s : State) (r : CalRow) : Prop :=
  s.rxCenter.toNat = r.center ∧ s.rxIntra.toNat = r.intra ∧ s.rxStop.toNat = r.stop ∧ s.txDelay.toNat = r.tx

/-- `0 <= head < C` and `0 <= tail < C` (R32). -/
abbrev State.IndicesInRange (s : State) : Prop := s.head.toNat < s.cfg.c ∧ s.tail.toNat < s.cfg.c

/-- The slots' canonical form, with no slot outside `0..C-1`. -/
abbrev State.MemoryOk (s : State) : Prop := s.buf.wf = true ∧ s.buf.within s.cfg.c = true

/-- `h_active = 1` implies `gie = 0` (R32). -/
abbrev State.HandlerMasks (s : State) : Prop := s.hActive = true → s.gie = false

/-- While armed, the timing registers hold a row of the table. It implies R32's clause: `txDelay` is not 0, or the row
installed has delay 0. -/
abbrev State.ArmedHoldsRow (s : State) : Prop := s.armed = true → ∃ r ∈ s.cfg.calTable, s.HoldsRow r

/-- Every path through the handler's list ends in its return, which is its last item, and raises nothing (42 R87,
60 R127). -/
def HandlerCode.endsInReturn : HandlerCode → Bool
  | .done => false
  | .wait _ rest => HandlerCode.endsInReturn rest
  | .delay _ rest => HandlerCode.endsInReturn rest
  | .act .leave rest => rest.isDone
  | .act .startCheck rest => HandlerCode.endsInReturn rest
  | .act (.sample _) rest => HandlerCode.endsInReturn rest
  | .act .commit rest => HandlerCode.endsInReturn rest
  | .test _ yes no => HandlerCode.endsInReturn yes && HandlerCode.endsInReturn no
  | .raise _ => false

/-- The most commits on a path through the handler's list. -/
def HandlerCode.commits : HandlerCode → Nat
  | .done => 0
  | .wait _ rest => HandlerCode.commits rest
  | .delay _ rest => HandlerCode.commits rest
  | .act .commit rest => HandlerCode.commits rest + 1
  | .act .startCheck rest => HandlerCode.commits rest
  | .act (.sample _) rest => HandlerCode.commits rest
  | .act .leave rest => HandlerCode.commits rest
  | .test _ yes no => max (HandlerCode.commits yes) (HandlerCode.commits no)
  | .raise _ => 0

/-- The handler is idle with nothing left to run, or active, not in phase Idle, with a list that ends in its return and
commits at most once (R30, R87, R94). -/
abbrev State.HandlerShape (s : State) : Prop :=
  (s.hActive = false → s.hPhase = .idle ∧ s.hItems = .done) ∧
    (s.hActive = true →
      s.hPhase ≠ .idle ∧ HandlerCode.endsInReturn s.hItems = true ∧ HandlerCode.commits s.hItems ≤ 1)

/-- A command's list raises only F_DELAY_RANGE, and only where the start count does not fit (44 R116, 60 R121). -/
def FgCode.raisesGuarded : FgCode → Bool
  | .done => true
  | .wait _ rest => FgCode.raisesGuarded rest
  | .delay _ rest => FgCode.raisesGuarded rest
  | .act _ rest => FgCode.raisesGuarded rest
  | .test .startTooLong yes no =>
    (decide (yes = .raise .delayRange) || FgCode.raisesGuarded yes) && FgCode.raisesGuarded no
  | .test .rowFound yes no => FgCode.raisesGuarded yes && FgCode.raisesGuarded no
  | .test .unconfigured yes no => FgCode.raisesGuarded yes && FgCode.raisesGuarded no
  | .raise _ => false

/-- The invariant every step keeps (R32 and the shape of the contexts' lists). -/
abbrev State.Inv (s : State) : Prop :=
  s.cfg.wf = true ∧ s.IndicesInRange ∧ s.MemoryOk ∧ s.HandlerMasks ∧ s.ArmedHoldsRow ∧ s.HandlerShape ∧
    FgCode.raisesGuarded s.fgItems = true

/-- A state after reset (R135): every element at the value the spec gives. `buf`, `acc`, `hSaved`, `hLvl` and the
command's locals hold any value, the buffer's slots in their canonical form. -/
abbrev State.IsReset (s : State) : Prop :=
  (s.rxCenter = 0 ∧ s.rxIntra = 0 ∧ s.rxStop = 0 ∧ s.txDelay = 0) ∧ (s.head = 0 ∧ s.tail = 0 ∧ s.MemoryOk) ∧
    (s.ovf = false ∧ s.armed = false ∧ s.gie = false ∧ s.pending = false) ∧
      (s.now = 0 ∧ s.tx = true ∧ s.rxPrev = s.rxAt 0) ∧
        (s.hActive = false ∧ s.hPhase = .idle ∧ s.hItems = .done) ∧
          (s.cp = 0 ∧ s.fgItems = .done ∧ s.response = none ∧ s.resp = none)

/-- BEGIN's list from its install action on (40 R72). -/
def installItems (baud : Nat) : FgCode :=
  .act (.install baud) <| .test .rowFound (.delay .txDelay <| .act .enableInterrupts .done) .done

/-- A command's list that, with `txDelay` 0, drives no pin, raises nothing and installs no row of the table. -/
def FgCode.installsNothing (table : List CalRow) : FgCode → Bool
  | .done => true
  | .wait _ rest => FgCode.installsNothing table rest
  | .delay _ rest => FgCode.installsNothing table rest
  | .act (.install baud) rest => (lookupRow table baud).isNone && FgCode.installsNothing table rest
  | .act .startBit _ => false
  | .act (.dataBit _) _ => false
  | .act _ rest => FgCode.installsNothing table rest
  | .test .unconfigured yes _ => FgCode.installsNothing table yes
  | .test .rowFound yes no => FgCode.installsNothing table yes && FgCode.installsNothing table no
  | .test .startTooLong yes no => FgCode.installsNothing table yes && FgCode.installsNothing table no
  | .raise _ => false

/-- No BEGIN on a supported baud has run its install action: the state R136 describes. The command in progress, if any, is
a BEGIN that has not reached its install action, or one that installs nothing. -/
abbrev State.Unbegun (s : State) : Prop :=
  s.cfg.wf = true ∧ (s.txDelay = 0 ∧ s.head = 0 ∧ s.tail = 0 ∧ s.ovf = false ∧ s.armed = false) ∧
    (s.tx = true ∧ s.hActive = false) ∧
      (FgCode.installsNothing s.cfg.calTable s.fgItems = true ∨
        ∃ n baud, s.fgItems = Code.waitThen n (installItems baud))

/-- A quiescent state (R37). -/
abbrev State.Quiescent (s : State) : Prop :=
  s.stream[s.cp]? = none ∧ s.fgItems = .done ∧ s.hActive = false ∧ s.dispatchable = false

/-- A run that faults or is refused is never quiescent (R121, R122). -/
def quiescentOutcome : Host.Outcome State Fault Refusal → Prop
  | .next s => s.Quiescent
  | .fault _ => False
  | .refused _ => False

/-- The handler takes this cycle: it is active, or is dispatched (R33). -/
abbrev State.HandlerTurn (s : State) : Prop := s.hActive = true ∨ s.edgeDetect.dispatchable = true

/-- The foreground takes this cycle: neither the handler nor a foreign handler does (R33). -/
abbrev State.FgTurn (s : State) : Prop :=
  s.hActive = false ∧ s.edgeDetect.dispatchable = false ∧ s.edgeDetect.foreignCycle = false

/-- The foreground fetches command `i` in this cycle (R33). -/
abbrev State.Fetches (s : State) (i : Instr) : Prop :=
  s.FgTurn ∧ s.fgItems = .done ∧ ∃ w, s.stream[s.cp]? = some w ∧ decode w = .instr i

/-- The foreground runs the install action of BEGIN `baud` in this cycle: it fetches the command and `CALL_PRE` is 0, or
the action is the next item of the command in progress (40 R72, R75). -/
abbrev State.Installs (s : State) (baud : Nat) : Prop :=
  (s.Fetches (.beginBaud baud) ∧ s.cfg.callPre = 0) ∨ (s.FgTurn ∧ ∃ rest, s.fgItems = .act (.install baud) rest)

/-- Slot number `k` places after `head` (R32, R44). -/
def State.slotAt (s : State) (k : Nat) : Nat := (s.head.toNat + k) % s.cfg.c

/-- The occupied slots' bytes, oldest first (R32, R109). -/
def State.contents (s : State) : List Byte := (List.range s.count).map fun k => s.buf.read (s.slotAt k)

/-- The states differ at most in slots that are not occupied (R44). -/
abbrev State.AgreeOnOccupied (s t : State) : Prop :=
  t = { s with buf := t.buf } ∧ ∀ k, k < s.count → t.buf.read (s.slotAt k) = s.buf.read (s.slotAt k)

/-- Two outcomes agree: states that agree on occupied slots, or the same reason. -/
def outcomesAgree : Host.Outcome State Fault Refusal → Host.Outcome State Fault Refusal → Prop
  | .next s, .next t => s.AgreeOnOccupied t
  | .fault f, .fault g => f = g
  | .refused f, .refused g => f = g
  | _, _ => False

/-- Commit each byte in order with `push` (43 R101). -/
def State.pushAll : State → List Byte → Except Fault State
  | s, [] => .ok s
  | s, v :: rest =>
    match s.push v with
    | .ok (_, t) => State.pushAll t rest
    | .error f => .error f

/-- The line is quiet for `n` cycles from now: a waveform that holds the level the edge detector has seen, and nothing
pending, so that no dispatch takes one of them. -/
abbrev State.QuietFor (s : State) (n : Nat) : Prop :=
  s.pending = false ∧ (∃ changes, s.line = .wave changes) ∧ ∀ t, s.now ≤ t → t < s.now + n → s.rxAt t = s.rxPrev

end Sys2Proof.Machine
end

