-- ==== Sys2Proof/Certificates/Slice0/Obligations.lean ====
section
/-! DEFINITION. The statements for the provers: what the numbered rules of the spec say the decoder, the commands, the
receive engine and the machine do. "Alone" means with no other context taking a cycle (`State.fgCycles`); statements
about the machine itself are over `step` and `runSteps`. -/

open Sys2Proof Sys2Proof.Machine

/-! ### Encodings (30_encoding.md) -/

/-- Decoding the word of any well-formed command gives it back with its operand (R63 to R71). -/
def Obligations.DecodeOfEncodeIsTheCommand : Prop :=
  ∀ i : Instr, i.wf = true → decode (encode i) = .instr i

/-- A word that decodes to a command is that command's only word (R66, R71). -/
def Obligations.EveryCommandHasOneWord : Prop :=
  ∀ (w : Word) (i : Instr), decode w = .instr i → i.wf = true ∧ encode i = w

/-- R66: which words are reserved, and that fetching one refuses it. -/
def Obligations.ReservedWordsAreRefused : Prop :=
  (∀ w : Word, decode w = .reserved w ↔
    (w.toNat / 2 ^ 28 = 0 ∨ (9 ≤ w.toNat / 2 ^ 28 ∧ w.toNat / 2 ^ 28 ≤ 14)) ∨
    (w.toNat / 2 ^ 28 ∈ [2, 3, 4, 5, 6, 8] ∧ w.toNat % 2 ^ 28 ≠ 0) ∨
    (w.toNat / 2 ^ 28 = 7 ∧ w.toNat / 2 ^ 8 % 2 ^ 20 ≠ 0) ∨
    (w.toNat / 2 ^ 28 = 15 ∧
      (w.toNat / 2 ^ 24 % 2 ^ 4 ∉ [0, 1, 2] ∨
        (w.toNat / 2 ^ 24 % 2 ^ 4 ∈ [1, 2] ∧ w.toNat % 2 ^ 24 ≠ 0)))) ∧
  ∀ (s : State) (w : Word), s.cfg.wf = true → s.FgTurn → s.fgItems = .done → s.stream[s.cp]? = some w →
    decode w = .reserved w → step s = .refused (.reserved w)

/-- Words of 95_test_vectors.md L2.1 decode to the commands they stand for. -/
def Obligations.WordsOfTheSpecDecode : Prop :=
  decode 0x10002580 = .instr (.beginBaud 9600) ∧ decode 0x20000000 = .instr .endSession ∧
  decode 0x700000A5 = .instr (.write 0xA5) ∧ decode 0xF00007D0 = .instr (.idle 2000) ∧
  decode 0xF1000000 = .instr .sei ∧ decode 0x20000001 = .reserved 0x20000001

/-- The two multi-byte values are serialised little-endian (20_memory.md R49): a command word's four bytes decode as the
word, whatever bytes follow, and a response word's two bytes are the response word. -/
def Obligations.BytesDecodeLittleEndian : Prop :=
  (∀ (w : Word) (rest : List Byte),
    bytesOfWord w = [BitVec.ofNat 8 w.toNat, BitVec.ofNat 8 (w.toNat / 2 ^ 8), BitVec.ofNat 8 (w.toNat / 2 ^ 16),
      BitVec.ofNat 8 (w.toNat / 2 ^ 24)] ∧
    (∀ i, decode w = .instr i → decodeBytes (bytesOfWord w ++ rest) = .instr i rest) ∧
    (decode w = .reserved w → decodeBytes (bytesOfWord w ++ rest) = .reserved w)) ∧
  ∀ r : Response, bytesOfResponse r = [BitVec.ofNat 8 r.toNat, BitVec.ofNat 8 (r.toNat / 2 ^ 8)] ∧
    ∀ b0 b1, bytesOfResponse r = [b0, b1] → responseOfBytes b0 b1 = r

/-- The frame of R61 slot by slot is the 10-bit number `(1 << 9) | (x << 1)` read from bit 0. -/
def Obligations.FrameWordHoldsTheSlotLevels : Prop :=
  ∀ (x : Byte) (j : Nat), j < 10 → (frameWord x).getLsbD j = frameLevel x j

/-! ### The cycle step (10_state.md) -/

/-- A step whose cycle is the foreground's, with no command in progress and a word at `cp` that decodes to `i`, is `exec i`
after edge detection and the advance of `cp`, and then the cycle number moves on (R33). -/
def Obligations.StepRunsTheDecodedCommand : Prop :=
  ∀ (s : State) (w : Word) (i : Instr), s.cfg.wf = true → s.FgTurn → s.fgItems = .done →
    s.stream[s.cp]? = some w → decode w = .instr i →
    step s = thenTick (exec i { s.edgeDetect with cp := s.cp + 1 })

/-- The word the host places is the command the very next step runs; where it is placed is the model's choice (log 8). -/
def Obligations.PlacedWordIsRunNext : Prop :=
  ∀ (s : State) (w : Nat) (i : Instr), s.cfg.wf = true → decodeTableWord 32 w = some i →
    step (s.withFetchWord 32 w) = thenTick (exec i { s.withFetchWord 32 w with cp := s.cp + 1 })

/-- R33: which context takes the cycle, after edge detection. -/
def Obligations.CycleBelongsToOneContext : Prop :=
  ∀ s : State, s.cfg.wf = true →
    (s.hActive = true → step s = thenTick s.edgeDetect.advanceHandler) ∧
    (s.hActive = false → s.edgeDetect.dispatchable = true →
      step s = thenTick (s.edgeDetect.dispatch (rxItems s.cfg)).advanceHandler) ∧
    (s.hActive = false → s.edgeDetect.dispatchable = false → s.edgeDetect.foreignCycle = true →
      step s = .next s.edgeDetect.tick) ∧
    (s.FgTurn → s.fgItems.isDone = false → step s = thenTick s.edgeDetect.resumeFg) ∧
    (s.FgTurn → s.fgItems = .done → s.stream[s.cp]? = none → step s = .next s.edgeDetect.tick)

/-- R34: edge detection, both directions of change, and that it changes nothing else; a dispatch of the same cycle, which
comes after it, consumes the change. -/
def Obligations.EdgeDetectionLatchesChanges : Prop :=
  ∀ s : State,
    s.edgeDetect = { s with
      pending := if s.rxNow ≠ s.rxPrev ∧ (s.armed = true ∨ s.cfg.pLatchDisarmed = true) then true else s.pending
      rxPrev := s.rxNow } ∧
    (s.cfg.wf = true → s.hActive = false → s.edgeDetect.dispatchable = true → ∀ t, step s = .next t → t.pending = false)

/-- Over a whole step: `rx_prev` takes the level of the cycle, dispatch clears `pending`, and nothing else does
(R27, R34). -/
def Obligations.OnlyDispatchClearsPending : Prop :=
  ∀ s t : State, step s = .next t →
    t.rxPrev = s.rxNow ∧
    (s.hActive = false ∧ s.edgeDetect.dispatchable = true → t.pending = false) ∧
    (¬ (s.hActive = false ∧ s.edgeDetect.dispatchable = true) →
      t.pending = (s.pending || (s.rxNow != s.rxPrev && (s.armed || s.cfg.pLatchDisarmed))))

/-- The parameters, the command stream, the waveform and the foreign draw never change, and each step is one cycle
(R33, R38). -/
def Obligations.InputsNeverChange : Prop :=
  ∀ s t : State, step s = .next t →
    t.cfg = s.cfg ∧ t.stream = s.stream ∧ t.line = s.line ∧ t.foreign = s.foreign ∧ t.now = s.now + 1

/-- `cp` advances by exactly 1 at each fetch and never jumps (R31). -/
def Obligations.StreamPositionAdvancesByFetches : Prop :=
  ∀ s t : State, step s = .next t →
    (s.FgTurn ∧ s.fgItems = .done ∧ s.cp < s.stream.length → t.cp = s.cp + 1) ∧
    (¬ (s.FgTurn ∧ s.fgItems = .done ∧ s.cp < s.stream.length) → t.cp = s.cp)

/-- A step whose cycle is not the handler's keeps the handler's state and the buffer's slots, never sets `ovf`, and moves
`tail` only to 0 (R22, R23, R24, R30, R56). -/
def Obligations.OnlyTheHandlerReceives : Prop :=
  ∀ s t : State, step s = .next t → ¬ s.HandlerTurn →
    (t.hActive = s.hActive ∧ t.hPhase = s.hPhase ∧ t.acc = s.acc ∧ t.hSaved = s.hSaved ∧ t.hLvl = s.hLvl ∧
      t.hItems = s.hItems) ∧
    (∀ a, t.buf.read a = s.buf.read a) ∧ (t.tail = s.tail ∨ t.tail = 0) ∧ (t.ovf = true → s.ovf = true)

/-- A step whose cycle is the handler's keeps the foreground's whole context, a partly consumed wait among it, the timing
registers, `head`, `armed` and `tx`; it stores at most one byte, in the slot at `tail` and only when the buffer is not
full (R33, R56, R84, R129). -/
def Obligations.HandlerCycleFrame : Prop :=
  ∀ s t : State, s.Inv → s.HandlerTurn → step s = .next t →
    t = { s with
      now := s.now + 1, pending := t.pending, rxPrev := t.rxPrev, gie := t.gie, hActive := t.hActive
      hPhase := t.hPhase, acc := t.acc, hSaved := t.hSaved, hLvl := t.hLvl, hItems := t.hItems
      buf := t.buf, tail := t.tail, ovf := t.ovf } ∧
    ((t.tail = s.tail ∧ (∀ a, t.buf.read a = s.buf.read a) ∧ (t.ovf = s.ovf ∨ s.isFull = true ∧ t.ovf = true)) ∨
      (s.isFull = false ∧ t.tail = nextIndex s.cfg.c s.tail ∧ t.ovf = s.ovf ∧
        ∀ a, a ≠ s.tail.toNat → t.buf.read a = s.buf.read a))

/-- R7 and R47: which configurations are well formed, and that instantiating any other is refused with R_CONFIG. That every
step of a state with such a configuration is refused with R_CONFIG too, and no other step is, is the model's choice
(log 10). -/
def Obligations.IllFormedConfigurationIsRefused : Prop :=
  (∀ p : Params, p.wf = true ↔
    1 ≤ p.k ∧ (∃ n, 1 ≤ n ∧ n ≤ 8 ∧ p.c = 2 ^ n) ∧ 1 ≤ p.ovfGap ∧
      ∀ r ∈ p.calTable, 1 ≤ r.baud ∧ r.baud ≤ 2 ^ 28 - 1 ∧ r.center ≤ 2 ^ 16 - 1 ∧ r.intra ≤ 2 ^ 16 - 1 ∧
        r.stop ≤ 2 ^ 16 - 1 ∧ r.tx ≤ 2 ^ 16 - 1) ∧
  (∀ s : State, step s = .refused .config ↔ s.cfg.wf = false) ∧
  ∀ p line stream foreign, instantiate p line stream foreign = .refused .config ↔ p.wf = false

/-! ### Reset and the invariant -/

/-- R135: instantiating a well-formed configuration gives the reset value of every element that has one, whatever the
line, the stream and the foreign draw. -/
def Obligations.ResetGivesTheSpecsValues : Prop :=
  ∀ (p : Params) (line : Line) (stream : List Word) (foreign : List Nat), p.wf = true →
    ∃ s, instantiate p line stream foreign = .next s ∧
      (s.cfg = p ∧ s.line = line ∧ s.stream = stream ∧ s.foreign = foreign ∧ s.now = 0) ∧
      (s.rxCenter = 0 ∧ s.rxIntra = 0 ∧ s.rxStop = 0 ∧ s.txDelay = 0) ∧
      (s.head = 0 ∧ s.tail = 0 ∧ s.ovf = false ∧ s.armed = false ∧ s.gie = false ∧ s.pending = false) ∧
      (s.tx = true ∧ s.rxPrev = s.rxAt 0) ∧
      (s.hActive = false ∧ s.hPhase = .idle ∧ s.hItems = .done) ∧
      (s.cp = 0 ∧ s.fgItems = .done ∧ s.resp = none)

/-- Every reset state with a well-formed configuration meets the invariant. -/
def Obligations.ResetMeetsTheInvariant : Prop :=
  (∀ s : State, s.cfg.wf = true → s.IsReset → s.Inv) ∧ State.reset.IsReset ∧ State.reset.cfg.wf = true

/-- Every step keeps the invariant of R32 and the shape of the contexts' lists. -/
def Obligations.StepKeepsTheInvariant : Prop :=
  ∀ s t : State, s.Inv → step s = .next t → t.Inv

/-- R121: F_DELAY_RANGE is the only fault, and the handler raises none (R127). -/
def Obligations.OnlyFaultIsDelayRange : Prop :=
  ∀ (s : State) (f : Fault), s.Inv → step s = .fault f → f = .delayRange ∧ ¬ s.HandlerTurn

/-- A buffer access at an index outside `0..C-1`, which no state of a run holds, stops by name (log 6; the model's own
choice, R51). -/
def Obligations.SlotOutsideTheBufferFaults : Prop :=
  (∀ s : State, s.cfg.c ≤ s.head.toNat → s.head ≠ s.tail →
    s.runCommand .read s.cfg.callPre = .fault .slotRange ∧ s.runCommand .peek s.cfg.callPre = .fault .slotRange) ∧
  ∀ (s : State) (v : Byte), s.cfg.c ≤ s.tail.toNat → s.isFull = false → s.push v = .error .slotRange

/-- R44: slots that are not occupied are never observed. Two states that differ only in them step to states that differ
only in them, with every response, line level and flag the same. -/
def Obligations.UnoccupiedSlotsAreNeverObserved : Prop :=
  ∀ s t : State, s.Inv → t.Inv → s.AgreeOnOccupied t → outcomesAgree (step s) (step t)

/-! ### The ring buffer (43_ring_buffer.md) -/

/-- R99 to R102: the four internal operations. -/
def Obligations.RingBufferOperations : Prop :=
  ∀ s : State, s.IndicesInRange →
    s.count = (((s.tail.toNat : Int) - s.head.toNat) % s.cfg.c).toNat ∧ s.count ≤ s.cfg.c - 1 ∧
    s.pop = .ok (if s.head = s.tail then (none, s)
      else (some (s.buf.read s.head.toNat), { s with head := BitVec.ofNat 8 ((s.head.toNat + 1) % s.cfg.c) })) ∧
    s.peekFront = .ok (if s.head = s.tail then none else some (s.buf.read s.head.toNat)) ∧
    ∀ v : Byte, s.push v = .ok
      (if BitVec.ofNat 8 ((s.tail.toNat + 1) % s.cfg.c) = s.head then (false, { s with ovf := true })
      else (true, { s with
        buf := s.buf.write s.tail.toNat v, tail := BitVec.ofNat 8 ((s.tail.toNat + 1) % s.cfg.c) }))

/-- A slot written reads back, and every other slot reads as before. -/
def Obligations.SlotWriteReadsBack : Prop :=
  ∀ (m : Memory) (a : Nat) (v : Byte), m.wf = true →
    (m.write a v).read a = v ∧ ∀ b, b ≠ a → (m.write a v).read b = m.read b

/-- Canonical memories that read the same at every slot are the same data. -/
def Obligations.EqualSlotsAreEqualMemories : Prop :=
  ∀ m n : Memory, m.wf = true → n.wf = true → (∀ a, m.read a = n.read a) → m = n

/-- R109: the buffer is a FIFO queue of at most `C - 1` bytes. -/
def Obligations.RingBufferRefinesAQueue : Prop :=
  ∀ s : State, s.Inv →
    s.contents.length = s.count ∧
    (s.contents = [] → s.pop = .ok (none, s) ∧ s.peekFront = .ok none) ∧
    (∀ v rest, s.contents = v :: rest →
      s.peekFront = .ok (some v) ∧ ∃ t, s.pop = .ok (some v, t) ∧ t.contents = rest) ∧
    (∀ v, s.contents.length < s.cfg.c - 1 → ∃ t, s.push v = .ok (true, t) ∧ t.contents = s.contents ++ [v]) ∧
    (∀ v, s.contents.length = s.cfg.c - 1 → s.push v = .ok (false, { s with ovf := true }))

/-- R110: from an empty buffer `C - 1` commits succeed in order and leave `ovf`; the next one sets it and loses its
byte. -/
def Obligations.CapacityIsOneLessThanTheSlots : Prop :=
  ∀ (s : State) (vs : List Byte), s.Inv → s.head = s.tail → vs.length = s.cfg.c - 1 →
    ∃ t, s.pushAll vs = .ok t ∧ t.contents = vs ∧ t.count = s.cfg.c - 1 ∧ t.ovf = s.ovf ∧
      ∀ v, t.push v = .ok (false, { t with ovf := true })

/-! ### The commands -/

/-- `CALL_PRE` (R6): a command of the block changes nothing before its first action, which comes `CALL_PRE` cycles after
its fetch. -/
def Obligations.NoEffectBeforeTheFirstAction : Prop :=
  ∀ (i : Instr) (s : State) (n : Nat), (∀ k, i ≠ .idle k) → i ≠ .sei → i ≠ .cli → n < s.cfg.callPre →
    ∃ t, s.runCommand i n = .next t ∧ t = { s with response := none, fgItems := t.fgItems } ∧
      t.fgItems.isDone = false

/-- R73: the lookup takes the first row whose baud matches exactly. -/
def Obligations.LookupTakesTheFirstMatch : Prop :=
  ∀ (table : List CalRow) (baud : Nat),
    (∀ r, lookupRow table baud = some r ↔
      ∃ before after, table = before ++ r :: after ∧ r.baud = baud ∧ ∀ q ∈ before, q.baud ≠ baud) ∧
    (lookupRow table baud = none ↔ ∀ r ∈ table, r.baud ≠ baud)

/-- BEGIN on a supported baud, alone (R72, R75): `CALL_PRE` cycles after fetch the row is installed, the buffer and `ovf`
reset and the receiver armed, with `gie` as it was; it stays so during the pause of `txDelay * K` cycles; then `gie` is
1 and BEGIN is complete. -/
def Obligations.BeginInstallsPausesAndEnables : Prop :=
  ∀ (s : State) (baud : Nat) (r : CalRow), s.cfg.wf = true → lookupRow s.cfg.calTable baud = some r →
    ∃ t, exec (.beginBaud baud) s = .next t ∧
      (∀ n, s.cfg.callPre ≤ n → n < s.cfg.callPre + r.tx * s.cfg.k →
        ∃ u, State.fgCycles n t = .next u ∧ u.fgItems.isDone = false ∧ u = { s with
          rxCenter := BitVec.ofNat 16 r.center, rxIntra := BitVec.ofNat 16 r.intra
          rxStop := BitVec.ofNat 16 r.stop, txDelay := BitVec.ofNat 16 r.tx
          head := 0, tail := 0, ovf := false, armed := true
          sGie := s.gie, row := some r, response := none, fgItems := u.fgItems }) ∧
      State.fgCycles (s.cfg.callPre + r.tx * s.cfg.k) t = .next { s with
        rxCenter := BitVec.ofNat 16 r.center, rxIntra := BitVec.ofNat 16 r.intra
        rxStop := BitVec.ofNat 16 r.stop, txDelay := BitVec.ofNat 16 r.tx
        head := 0, tail := 0, ovf := false, armed := true, gie := true
        sGie := s.gie, row := some r, response := none, fgItems := .done }

/-- BEGIN on an unsupported baud, alone (R76): after its one action the timing and the indices are 0, `ovf` and `armed` 0,
`gie` what it was, and there is no pause. -/
def Obligations.UnsupportedBeginUnconfigures : Prop :=
  ∀ (s : State) (baud : Nat), lookupRow s.cfg.calTable baud = none →
    ∃ t, exec (.beginBaud baud) s = .next t ∧
      State.fgCycles s.cfg.callPre t = .next { s with
        rxCenter := 0, rxIntra := 0, rxStop := 0, txDelay := 0, head := 0, tail := 0, ovf := false, armed := false
        sGie := s.gie, row := none, response := none, fgItems := .done }

/-- R78: END writes `armed` and nothing else, `CALL_PRE` cycles after its fetch. -/
def Obligations.EndDisarms : Prop :=
  decode 0x20000000 = .instr .endSession ∧
  ∀ s : State, ∃ t, exec .endSession s = .next t ∧
    State.fgCycles s.cfg.callPre t = .next { s with armed := false, response := none, fgItems := .done }

/-- R106: FLUSH resets both indices and restores `gie`; `ovf`, `armed`, the slots and the timing stay. -/
def Obligations.FlushResetsTheIndices : Prop :=
  decode 0x30000000 = .instr .flush ∧
  ∀ s : State, ∃ t, exec .flush s = .next t ∧
    State.fgCycles s.cfg.callPre t =
      .next { s with head := 0, tail := 0, sGie := s.gie, response := none, fgItems := .done }

/-- R103: AVAILABLE responds the occupancy, never more than `C - 1`. -/
def Obligations.AvailableRespondsTheOccupancy : Prop :=
  decode 0x40000000 = .instr .available ∧
  ∀ s : State, (0 < s.cfg.c → s.count ≤ s.cfg.c - 1) ∧ ∃ t, exec .available s = .next t ∧
    State.fgCycles s.cfg.callPre t = .next { s with
      resp := some (BitVec.ofNat 16 (((s.tail.toNat : Int) - s.head.toNat) % s.cfg.c).toNat)
      response := none, fgItems := .done }

/-- R104: READ responds the byte at `head` and advances `head`, or responds -1 and changes nothing else. -/
def Obligations.ReadPopsAByte : Prop :=
  decode 0x50000000 = .instr .read ∧
  ∀ s : State, s.head.toNat < s.cfg.c → ∃ t, exec .read s = .next t ∧
    State.fgCycles s.cfg.callPre t = .next
      (if s.head = s.tail then { s with resp := some 0xFFFF, response := none, fgItems := .done }
      else { s with
        head := BitVec.ofNat 8 ((s.head.toNat + 1) % s.cfg.c)
        resp := some (BitVec.ofNat 16 (s.buf.read s.head.toNat).toNat), response := none, fgItems := .done })

/-- R105: PEEK responds as READ does and removes nothing. -/
def Obligations.PeekLeavesTheByte : Prop :=
  decode 0x60000000 = .instr .peek ∧
  ∀ s : State, s.head.toNat < s.cfg.c → ∃ t, exec .peek s = .next t ∧
    State.fgCycles s.cfg.callPre t = .next { s with
      resp := some (if s.head = s.tail then 0xFFFF else BitVec.ofNat 16 (s.buf.read s.head.toNat).toNat)
      response := none, fgItems := .done }

/-- R107: OVERFLOWED responds `ovf` as it read it and clears it `OVF_GAP` cycles later; until then `ovf` stays. -/
def Obligations.OverflowedReportsAndClears : Prop :=
  decode 0x80000000 = .instr .overflowed ∧
  ∀ s : State, ∃ t, exec .overflowed s = .next t ∧
    (∀ n, s.cfg.callPre ≤ n → n < s.cfg.callPre + s.cfg.ovfGap →
      ∃ u, State.fgCycles n t = .next u ∧ u.fgItems.isDone = false ∧
        u = { s with rOvf := s.ovf, response := none, fgItems := u.fgItems }) ∧
    State.fgCycles (s.cfg.callPre + s.cfg.ovfGap) t = .next { s with
      ovf := false, rOvf := s.ovf, resp := some (if s.ovf then 1 else 0), response := none, fgItems := .done }

/-- R108: the overflow report race is a run of the machine. The foreground fetches OVERFLOWED and its read sees `ovf` 0; the
next cycle, before its clear, dispatches the handler, whose commit sets `ovf`; the cycle after it is the foreground's,
OVERFLOWED's clear erases `ovf`, and its response is 0. -/
def Obligations.OverflowReportCanBeLost : Prop :=
  ∃ s t u v : State,
    (s.Inv ∧ s.Fetches .overflowed ∧ s.ovf = false ∧ s.resp = none) ∧
    (step s = .next t ∧ t.rOvf = false ∧ t.ovf = false ∧ t.resp = none ∧ t.fgItems = .act .clearOverflow .done) ∧
    (t.hActive = false ∧ t.edgeDetect.dispatchable = true ∧ step t = .next u ∧ u.ovf = true ∧
      u.fgItems = t.fgItems) ∧
    (u.FgTurn ∧ step u = .next v ∧ v.ovf = false ∧ v.resp = some 0 ∧ v.fgItems = .done)

/-- R68: IDLE n spends `n` cycles, at least 1, and changes no block state; SEI and CLI write `gie` in one cycle. -/
def Obligations.HarnessWordsTouchOnlyGie : Prop :=
  (∀ (s : State) (n : Nat), ∃ t, exec (.idle n) s = .next t ∧
    (∀ m, m + 1 < n → State.fgCycles m t = .next
      { s with response := none, fgItems := .wait (n - 1 - m) .done }) ∧
    State.fgCycles (n - 1) t = .next { s with response := none, fgItems := .done }) ∧
  (∀ s : State, exec .sei s = .next { s with gie := true, response := none, fgItems := .done }) ∧
  ∀ s : State, exec .cli s = .next { s with gie := false, response := none, fgItems := .done }

/-- R113: a WRITE that is not configured responds 0 after `CALL_PRE` cycles and touches neither `tx` nor `gie`. -/
def Obligations.UnconfiguredWriteRespondsZero : Prop :=
  ∀ (s : State) (b : Byte), s.txDelay = 0 → ∃ t, exec (.write b) s = .next t ∧
    State.fgCycles s.cfg.callPre t = .next { s with resp := some 0, response := none, fgItems := .done }

/-- R116: a WRITE whose start count does not fit 16 bits faults with F_DELAY_RANGE before it drives the pin. That the fault
comes `CALL_PRE` cycles after the fetch, where the list of R111 raises it, is the model's reading (R11, log 7). -/
def Obligations.StartDelayOutOfRangeFaults : Prop :=
  ∀ (s : State) (b : Byte), s.txDelay ≠ 0 → s.txDelay.toNat + s.cfg.startAdj ≥ 65536 →
    s.runCommand (.write b) s.cfg.callPre = .fault .delayRange ∧
    ∀ n, n < s.cfg.callPre → ∃ t, s.runCommand (.write b) n = .next t ∧ t.tx = s.tx ∧ t.gie = s.gie

/-- A configured WRITE whose start count fits, alone, is complete after R147's cycles: `tx` is 1, `gie` what it was, and
the response 1 (R111). -/
def Obligations.ConfiguredWriteRespondsOne : Prop :=
  ∀ (s : State) (b : Byte), s.txDelay ≠ 0 → s.txDelay.toNat + s.cfg.startAdj ≤ 65535 →
    ∃ t, exec (.write b) s = .next t ∧
      State.fgCycles (s.duration (.write b) - 1) t = .next { s with
        tx := true, sGie := s.gie, resp := some 1, response := none, fgItems := .done }

/-- R112 and R114: a configured WRITE, alone, drives slot `j` of the frame of its byte from the cycle R112 gives slot `j`
to the next, with `gie` 0 up to the stop-level action and restored from it on; the stop level stands to WRITE's end. -/
def Obligations.WriteDrivesTheFrame : Prop :=
  ∀ (s : State) (b : Byte) (j n : Nat), s.txDelay ≠ 0 → s.txDelay.toNat + s.cfg.startAdj ≤ 65535 → j ≤ 9 →
    s.slotStart b j ≤ n → (j < 9 → n < s.slotStart b (j + 1)) →
    (j = 9 → n ≤ s.slotStart b 9 + s.txDelay.toNat * s.cfg.k + s.cfg.txPost) →
    ∃ u, s.runCommand (.write b) (s.cfg.callPre + n) = .next u ∧ u.tx = frameLevel b j ∧
      u.gie = (if j < 9 then false else s.gie)

/-- R147: every command, alone, takes exactly the cycles of the table: it is complete at its last cycle and not before. -/
def Obligations.CommandsTakeTheirDurations : Prop :=
  ∀ (s : State) (i : Instr), s.cfg.wf = true → s.IndicesInRange →
    ((∃ b, i = .write b) → s.txDelay = 0 ∨ s.txDelay.toNat + s.cfg.startAdj ≤ 65535) →
    (∃ t, exec i s = .next t) ∧
    (∃ t, s.runCommand i (s.duration i - 1) = .next t ∧ t.fgItems = .done) ∧
    ∀ n, n + 1 < s.duration i → ∃ t, s.runCommand i n = .next t ∧ t.fgItems.isDone = false

/-- What AVAILABLE, PEEK, READ and OVERFLOWED leave unchanged, in their fetch cycle (`n = 0`) and after any further cycles
of the foreground alone. -/
def Obligations.AccessorsFrame : Prop :=
  ∀ (s t : State) (n : Nat),
    ((s.runCommand .available n = .next t ∨ s.runCommand .peek n = .next t) →
      t = { s with resp := t.resp, response := t.response, fgItems := t.fgItems }) ∧
    (s.runCommand .read n = .next t →
      t = { s with head := t.head, resp := t.resp, response := t.response, fgItems := t.fgItems } ∧
        ∀ a, t.buf.read a = s.buf.read a) ∧
    (s.runCommand .overflowed n = .next t →
      t = { s with
        ovf := t.ovf, rOvf := t.rOvf, resp := t.resp, response := t.response, fgItems := t.fgItems })

/-- What BEGIN, END and FLUSH leave unchanged, in their fetch cycle and after any further cycles alone: among it `resp`,
`pending`, `tx`, the handler's state and every byte of the buffer. -/
def Obligations.LifecycleFrame : Prop :=
  ∀ (s t : State) (n baud : Nat),
    (s.runCommand (.beginBaud baud) n = .next t →
      t = { s with
        rxCenter := t.rxCenter, rxIntra := t.rxIntra, rxStop := t.rxStop, txDelay := t.txDelay
        head := t.head, tail := t.tail, ovf := t.ovf, armed := t.armed, gie := t.gie
        sGie := t.sGie, row := t.row, response := none, fgItems := t.fgItems } ∧
      ∀ a, t.buf.read a = s.buf.read a) ∧
    (s.runCommand .endSession n = .next t →
      t = { s with armed := t.armed, response := none, fgItems := t.fgItems }) ∧
    (s.runCommand .flush n = .next t →
      t = { s with head := t.head, tail := t.tail, sGie := t.sGie, response := none, fgItems := t.fgItems } ∧
      ∀ a, t.buf.read a = s.buf.read a)

/-- What WRITE and the harness words leave unchanged, in their fetch cycle and after any further cycles alone: among it
the buffer and its indices, `ovf`, `armed`, `pending` and the timing registers. -/
def Obligations.TransmitAndHarnessFrame : Prop :=
  ∀ (s t : State) (n k : Nat) (b : Byte),
    (s.runCommand (.write b) n = .next t →
      t = { s with
        tx := t.tx, gie := t.gie, sGie := t.sGie, resp := t.resp, response := t.response, fgItems := t.fgItems } ∧
      ∀ a, t.buf.read a = s.buf.read a) ∧
    (s.runCommand (.idle k) n = .next t → t = { s with response := none, fgItems := t.fgItems }) ∧
    ((s.runCommand .sei n = .next t ∨ s.runCommand .cli n = .next t) →
      t = { s with gie := t.gie, response := none, fgItems := t.fgItems })

/-- R80, R81 and R85: `delay(n)` at the head of a command's list takes `n * K` cycles of the foreground, none for 0, and
writes nothing. -/
def Obligations.DelayTakesItsTicks : Prop :=
  ∀ (s : State) (d : TickSource) (rest : FgCode), s.fgItems = .delay d rest → rest.isDone = false →
    (s.ticks d * s.cfg.k = 0 → s.resumeFg = { s with fgItems := rest }.resumeFg) ∧
    (0 < s.ticks d * s.cfg.k → State.fgCycles (s.ticks d * s.cfg.k) s = .next { s with fgItems := rest })

/-- R136: before the first supported BEGIN. Reset states are unbegun, and every step but the install action of a BEGIN on a
supported baud keeps a state unbegun. In an unbegun state the cycle is not the handler's, whatever the line does, and a
command alone answers so: WRITE responds 0 and leaves the line idle, AVAILABLE and OVERFLOWED respond 0, and READ and
PEEK respond -1. -/
def Obligations.UnbegunBlockAnswersEmpty : Prop :=
  (∀ s : State, s.cfg.wf = true → s.IsReset → s.Unbegun) ∧
  (∀ s t : State, s.Unbegun → (∀ baud, s.Installs baud → lookupRow s.cfg.calTable baud = none) →
    step s = .next t → t.Unbegun) ∧
  ∀ s : State, s.Unbegun →
    ¬ s.HandlerTurn ∧
    (∀ b n u, s.runCommand (.write b) n = .next u → u.tx = true) ∧
    (∀ b, ∃ t, s.runCommand (.write b) (s.duration (.write b) - 1) = .next t ∧ t.resp = some 0) ∧
    (∃ t, s.runCommand .available (s.duration .available - 1) = .next t ∧ t.resp = some 0) ∧
    (∃ t, s.runCommand .read (s.duration .read - 1) = .next t ∧ t.resp = some 0xFFFF) ∧
    (∃ t, s.runCommand .peek (s.duration .peek - 1) = .next t ∧ t.resp = some 0xFFFF) ∧
    (∃ t, s.runCommand .overflowed (s.duration .overflowed - 1) = .next t ∧ t.resp = some 0)

/-- A command no other context preempts runs on the machine as it runs alone. After each of its cycles but the last it is not
complete, and the next cycle is no other context's: `gie` is 0, whatever the line does, or no foreign cycle exists and
the receiver is disarmed or the line has been quiet. Then from the step that fetches it the machine reaches the state its
cycles alone reach, but for the cycle number and the edge detector, and a quiet line leaves that as it was. So in the
blind window of a configured WRITE (R114), from its start bit to its stop level, no dispatch occurs and the machine
drives the frame, whatever the line does. -/
def Obligations.UnpreemptedCommandRunsAsAlone : Prop :=
  (∀ (s u : State) (i : Instr) (n : Nat), s.cfg.wf = true → s.Fetches i →
    { s with cp := s.cp + 1 }.runCommand i n = .next u →
    (∀ m v, m < n → { s with cp := s.cp + 1 }.runCommand i m = .next v → v.fgItems.isDone = false ∧
      (v.gie = false ∨ (s.cfg.extIrq = false ∧ (v.armed = false ∨ s.QuietFor (m + 2))))) →
    ∃ t, runSteps (n + 1) s = .next t ∧
      t = { u with now := s.now + (n + 1), pending := t.pending, rxPrev := t.rxPrev } ∧
      (s.QuietFor (n + 1) → t.pending = false ∧ t.rxPrev = s.rxPrev)) ∧
  ∀ (s : State) (b : Byte) (j n : Nat), s.cfg.wf = true → s.Fetches (.write b) → s.txDelay ≠ 0 →
    s.txDelay.toNat + s.cfg.startAdj ≤ 65535 →
    (s.cfg.callPre = 0 ∨ s.gie = false ∨
      (s.cfg.extIrq = false ∧ (s.armed = false ∨ s.QuietFor (s.cfg.callPre + 1)))) →
    j < 9 → s.slotStart b j ≤ n → n < s.slotStart b (j + 1) →
    ∃ t, runSteps (s.cfg.callPre + n + 1) s = .next t ∧ t.hActive = false ∧ t.gie = false ∧ t.tx = frameLevel b j

/-! ### The receive engine (42_receive.md, 60_exceptions.md) -/

/-- R123: in a cycle that finds the handler idle and `pending`, `armed` and `gie` 1, dispatch consumes the event, saves and
clears `gie`, starts the handler's list in phase StartCandidate, keeps everything else, and the cycle is the handler's;
in a cycle that finds the handler idle and one of the three 0, it stays idle. -/
def Obligations.DispatchEntersTheHandler : Prop :=
  ∀ s : State, s.cfg.wf = true → s.hActive = false →
    (s.edgeDetect.pending = true → s.armed = true → s.gie = true →
      step s = thenTick { s.edgeDetect with
        pending := false, hSaved := true, gie := false, hActive := true, hPhase := .startCandidate
        hItems := rxItems s.cfg }.advanceHandler) ∧
    (s.edgeDetect.pending = false ∨ s.armed = false ∨ s.gie = false → ∀ t, step s = .next t →
      t.hActive = false ∧ t.hItems = s.hItems ∧ t.hPhase = s.hPhase)

/-- The handler's return restores the saved `gie`, makes the handler idle, and changes nothing else (R124). -/
def Obligations.ReturnRestoresGie : Prop :=
  ∀ s : State, s.cfg.wf = true → s.hActive = true → s.hItems = .act .leave .done →
    step s = .next { s.edgeDetect with
      gie := s.hSaved, hActive := false, hPhase := .idle, hItems := .done, now := s.now + 1 }

/-- R94: the phase a dispatch and each action of the handler move to, the commit with room and on a full buffer. -/
def Obligations.HandlerActionsMoveThePhase : Prop :=
  ∀ s : State,
    (∀ items, (s.dispatch items).hPhase = .startCandidate) ∧
    (s.rxNow = true → runHandlerAct .startCheck s = .ok { s with hLvl := true }) ∧
    (s.rxNow = false → runHandlerAct .startCheck s = .ok { s with hLvl := false, hPhase := .sampling 0 }) ∧
    (∀ i : Fin 7, runHandlerAct (.sample i.castSucc) s =
      .ok { s with acc := s.acc.setBit i.castSucc s.rxNow, hPhase := .sampling i.succ }) ∧
    runHandlerAct (.sample 7) s = .ok { s with acc := s.acc.setBit 7 s.rxNow, hPhase := .stopGuard } ∧
    (s.isFull = false → s.tail.toNat < s.cfg.c → runHandlerAct .commit s = .ok { s with
      buf := s.buf.write s.tail.toNat s.acc, tail := nextIndex s.cfg.c s.tail, hPhase := .committed }) ∧
    (s.isFull = true → runHandlerAct .commit s = .ok { s with ovf := true, hPhase := .committed }) ∧
    runHandlerAct .leave s = .ok { s with hPhase := .idle, gie := s.hSaved, hActive := false }

/-- R91: the byte sampled has at bit `i` the level of the line at the sample instant of bit `i`. -/
def Obligations.SampledByteHoldsTheLevels : Prop :=
  ∀ (s : State) (i : Nat), i < 8 → s.sampledByte.getLsbD i = s.rxAt (s.now + s.sampleOffset i)

/-- R88: a dispatch whose start-bit check reads a high level returns `RX_XA` cycles after the check, and the buffer, the
flags and `acc` are as before; the handler is active in every cycle before. -/
def Obligations.SpuriousEdgeIsDiscarded : Prop :=
  ∀ s : State, s.Inv → s.hActive = false → s.edgeDetect.dispatchable = true →
    s.rxAt (s.now + s.cfg.eRx) = true →
    (∀ n, 1 ≤ n → n < s.spuriousDuration → ∃ u, runSteps n s = .next u ∧ u.hActive = true ∧ u.gie = false) ∧
    ∃ t, runSteps s.spuriousDuration s = .next t ∧
      t = { s with
        now := s.now + s.spuriousDuration, pending := t.pending, rxPrev := s.rxAt (s.now + s.spuriousDuration - 1)
        hSaved := true, hLvl := true }

/-- R90, R93 and R95: a dispatch whose start-bit check reads low samples the line at the eight instants of R90 and at R93's
commit cycle pushes the byte, or sets `ovf` and drops it when full; it returns `RX_XR` cycles later with `gie` 1 and
the foreground untouched; before, the handler is active with `gie` 0, and until the commit the buffer is as it was. -/
def Obligations.ReceivedFrameIsCommitted : Prop :=
  ∀ s : State, s.Inv → s.hActive = false → s.edgeDetect.dispatchable = true →
    s.rxAt (s.now + s.cfg.eRx) = false →
    (∀ n, 1 ≤ n → n < s.frameDuration → ∃ u, runSteps n s = .next u ∧ u.hActive = true ∧ u.gie = false ∧
      (n ≤ s.commitOffset → u.tail = s.tail ∧ u.buf = s.buf ∧ u.ovf = s.ovf) ∧
      (s.commitOffset < n → u.ovf = (s.ovf || s.isFull) ∧
        u.tail = (if s.isFull then s.tail else nextIndex s.cfg.c s.tail))) ∧
    ∃ t, runSteps s.frameDuration s = .next t ∧
      t = { s with
        now := s.now + s.frameDuration, pending := t.pending, rxPrev := s.rxAt (s.now + s.frameDuration - 1)
        hSaved := true, hLvl := false, acc := s.sampledByte
        buf := if s.isFull then s.buf else s.buf.write s.tail.toNat s.sampledByte
        tail := if s.isFull then s.tail else nextIndex s.cfg.c s.tail
        ovf := s.ovf || s.isFull }

/-- R96: the pin changes during a handler run merge into `pending`: after the run of a frame it is set exactly when the
line changed in a cycle of the run after the dispatch. -/
def Obligations.ChangesDuringTheRunArePending : Prop :=
  ∀ s t : State, s.Inv → s.hActive = false → s.edgeDetect.dispatchable = true →
    s.rxAt (s.now + s.cfg.eRx) = false → runSteps s.frameDuration s = .next t →
    (t.pending = true ↔
      ∃ c, s.now < c ∧ c < s.now + s.frameDuration ∧ s.rxAt c ≠ s.rxAt (c - 1))

/-- R97: a dispatch whose start-bit check reads low and whose eight samples fall in the data slots of the frame of `x` on
the line commits `x`, when the buffer is not full. Slot `j` occupies the cycles from `a j` to `a (j + 1)`. -/
def Obligations.FrameOnTheLineIsReceived : Prop :=
  ∀ (s : State) (x : Byte) (a : Nat → Nat), s.Inv → s.hActive = false → s.edgeDetect.dispatchable = true →
    s.isFull = false → s.rxAt (s.now + s.cfg.eRx) = false →
    (∀ j t, j < 10 → a j ≤ t → t < a (j + 1) → s.rxAt t = frameLevel x j) →
    (∀ i, i < 8 → a (i + 1) ≤ s.now + s.sampleOffset i ∧ s.now + s.sampleOffset i < a (i + 2)) →
    ∃ t, runSteps s.frameDuration s = .next t ∧ t.tail = nextIndex s.cfg.c s.tail ∧
      t.buf.read s.tail.toNat = x ∧ t.contents = s.contents ++ [x] ∧ t.ovf = s.ovf

/-- R118: the round trip. Block `b`'s line carries what a configured WRITE of `x` on block `a` drives, one cycle later, the
WRITE's start bit being driven in cycle `t0`; block `b` is dispatched, its check reads low, and its samples fall in the
data slots: then it receives `x`. -/
def Obligations.RoundTripDeliversTheByte : Prop :=
  ∀ (a b : State) (x : Byte) (t0 : Nat), a.txDelay ≠ 0 → a.txDelay.toNat + a.cfg.startAdj ≤ 65535 →
    b.Inv → b.hActive = false → b.edgeDetect.dispatchable = true → b.isFull = false →
    b.rxAt (b.now + b.cfg.eRx) = false →
    (∀ n u, a.runCommand (.write x) (a.cfg.callPre + n) = .next u → n < a.slotStart x 9 → b.rxAt (t0 + n + 1) = u.tx) →
    (∀ i, i < 8 → t0 + 1 + a.slotStart x (i + 1) ≤ b.now + b.sampleOffset i ∧
      b.now + b.sampleOffset i < t0 + 1 + a.slotStart x (i + 2)) →
    ∃ t, runSteps b.frameDuration b = .next t ∧ t.contents = b.contents ++ [x] ∧ t.ovf = b.ovf

/-- R37, with what the rule says it does not say: in a quiescent state whose line holds the level seen, a step changes
nothing but the cycle number. -/
def Obligations.QuiescentBlockStaysQuiet : Prop :=
  ∀ s : State, s.cfg.wf = true → s.Quiescent → s.rxNow = s.rxPrev → step s = .next { s with now := s.now + 1 }
end

