-- ==== Sys2Proof/Laws/State.lean ====
section
/-! SUPPORT. One lemma per field per named update of State, so that no later proof unfolds a record update. -/

namespace Sys2Proof.Machine

/-! ### `State.tick` -/

@[simp] theorem State.tick_cfg (s : State) : (s.tick).cfg = s.cfg := rfl
@[simp] theorem State.tick_line (s : State) : (s.tick).line = s.line := rfl
@[simp] theorem State.tick_stream (s : State) : (s.tick).stream = s.stream := rfl
@[simp] theorem State.tick_foreign (s : State) : (s.tick).foreign = s.foreign := rfl
@[simp] theorem State.tick_now (s : State) : (s.tick).now = s.now + 1 := rfl
@[simp] theorem State.tick_rxCenter (s : State) : (s.tick).rxCenter = s.rxCenter := rfl
@[simp] theorem State.tick_rxIntra (s : State) : (s.tick).rxIntra = s.rxIntra := rfl
@[simp] theorem State.tick_rxStop (s : State) : (s.tick).rxStop = s.rxStop := rfl
@[simp] theorem State.tick_txDelay (s : State) : (s.tick).txDelay = s.txDelay := rfl
@[simp] theorem State.tick_head (s : State) : (s.tick).head = s.head := rfl
@[simp] theorem State.tick_tail (s : State) : (s.tick).tail = s.tail := rfl
@[simp] theorem State.tick_buf (s : State) : (s.tick).buf = s.buf := rfl
@[simp] theorem State.tick_ovf (s : State) : (s.tick).ovf = s.ovf := rfl
@[simp] theorem State.tick_armed (s : State) : (s.tick).armed = s.armed := rfl
@[simp] theorem State.tick_gie (s : State) : (s.tick).gie = s.gie := rfl
@[simp] theorem State.tick_pending (s : State) : (s.tick).pending = s.pending := rfl
@[simp] theorem State.tick_tx (s : State) : (s.tick).tx = s.tx := rfl
@[simp] theorem State.tick_rxPrev (s : State) : (s.tick).rxPrev = s.rxPrev := rfl
@[simp] theorem State.tick_hActive (s : State) : (s.tick).hActive = s.hActive := rfl
@[simp] theorem State.tick_hPhase (s : State) : (s.tick).hPhase = s.hPhase := rfl
@[simp] theorem State.tick_acc (s : State) : (s.tick).acc = s.acc := rfl
@[simp] theorem State.tick_hSaved (s : State) : (s.tick).hSaved = s.hSaved := rfl
@[simp] theorem State.tick_hLvl (s : State) : (s.tick).hLvl = s.hLvl := rfl
@[simp] theorem State.tick_hItems (s : State) : (s.tick).hItems = s.hItems := rfl
@[simp] theorem State.tick_cp (s : State) : (s.tick).cp = s.cp := rfl
@[simp] theorem State.tick_fgItems (s : State) : (s.tick).fgItems = s.fgItems := rfl
@[simp] theorem State.tick_sGie (s : State) : (s.tick).sGie = s.sGie := rfl
@[simp] theorem State.tick_rOvf (s : State) : (s.tick).rOvf = s.rOvf := rfl
@[simp] theorem State.tick_row (s : State) : (s.tick).row = s.row := rfl
@[simp] theorem State.tick_response (s : State) : (s.tick).response = s.response := rfl
@[simp] theorem State.tick_resp (s : State) : (s.tick).resp = s.resp := rfl

/-! ### `State.enterCritical` -/

@[simp] theorem State.enterCritical_cfg (s : State) : (s.enterCritical).cfg = s.cfg := rfl
@[simp] theorem State.enterCritical_line (s : State) : (s.enterCritical).line = s.line := rfl
@[simp] theorem State.enterCritical_stream (s : State) : (s.enterCritical).stream = s.stream := rfl
@[simp] theorem State.enterCritical_foreign (s : State) : (s.enterCritical).foreign = s.foreign := rfl
@[simp] theorem State.enterCritical_now (s : State) : (s.enterCritical).now = s.now := rfl
@[simp] theorem State.enterCritical_rxCenter (s : State) : (s.enterCritical).rxCenter = s.rxCenter := rfl
@[simp] theorem State.enterCritical_rxIntra (s : State) : (s.enterCritical).rxIntra = s.rxIntra := rfl
@[simp] theorem State.enterCritical_rxStop (s : State) : (s.enterCritical).rxStop = s.rxStop := rfl
@[simp] theorem State.enterCritical_txDelay (s : State) : (s.enterCritical).txDelay = s.txDelay := rfl
@[simp] theorem State.enterCritical_head (s : State) : (s.enterCritical).head = s.head := rfl
@[simp] theorem State.enterCritical_tail (s : State) : (s.enterCritical).tail = s.tail := rfl
@[simp] theorem State.enterCritical_buf (s : State) : (s.enterCritical).buf = s.buf := rfl
@[simp] theorem State.enterCritical_ovf (s : State) : (s.enterCritical).ovf = s.ovf := rfl
@[simp] theorem State.enterCritical_armed (s : State) : (s.enterCritical).armed = s.armed := rfl
@[simp] theorem State.enterCritical_gie (s : State) : (s.enterCritical).gie = false := rfl
@[simp] theorem State.enterCritical_pending (s : State) : (s.enterCritical).pending = s.pending := rfl
@[simp] theorem State.enterCritical_tx (s : State) : (s.enterCritical).tx = s.tx := rfl
@[simp] theorem State.enterCritical_rxPrev (s : State) : (s.enterCritical).rxPrev = s.rxPrev := rfl
@[simp] theorem State.enterCritical_hActive (s : State) : (s.enterCritical).hActive = s.hActive := rfl
@[simp] theorem State.enterCritical_hPhase (s : State) : (s.enterCritical).hPhase = s.hPhase := rfl
@[simp] theorem State.enterCritical_acc (s : State) : (s.enterCritical).acc = s.acc := rfl
@[simp] theorem State.enterCritical_hSaved (s : State) : (s.enterCritical).hSaved = s.hSaved := rfl
@[simp] theorem State.enterCritical_hLvl (s : State) : (s.enterCritical).hLvl = s.hLvl := rfl
@[simp] theorem State.enterCritical_hItems (s : State) : (s.enterCritical).hItems = s.hItems := rfl
@[simp] theorem State.enterCritical_cp (s : State) : (s.enterCritical).cp = s.cp := rfl
@[simp] theorem State.enterCritical_fgItems (s : State) : (s.enterCritical).fgItems = s.fgItems := rfl
@[simp] theorem State.enterCritical_sGie (s : State) : (s.enterCritical).sGie = s.gie := rfl
@[simp] theorem State.enterCritical_rOvf (s : State) : (s.enterCritical).rOvf = s.rOvf := rfl
@[simp] theorem State.enterCritical_row (s : State) : (s.enterCritical).row = s.row := rfl
@[simp] theorem State.enterCritical_response (s : State) : (s.enterCritical).response = s.response := rfl
@[simp] theorem State.enterCritical_resp (s : State) : (s.enterCritical).resp = s.resp := rfl

/-! ### `State.leaveCritical` -/

@[simp] theorem State.leaveCritical_cfg (s : State) : (s.leaveCritical).cfg = s.cfg := rfl
@[simp] theorem State.leaveCritical_line (s : State) : (s.leaveCritical).line = s.line := rfl
@[simp] theorem State.leaveCritical_stream (s : State) : (s.leaveCritical).stream = s.stream := rfl
@[simp] theorem State.leaveCritical_foreign (s : State) : (s.leaveCritical).foreign = s.foreign := rfl
@[simp] theorem State.leaveCritical_now (s : State) : (s.leaveCritical).now = s.now := rfl
@[simp] theorem State.leaveCritical_rxCenter (s : State) : (s.leaveCritical).rxCenter = s.rxCenter := rfl
@[simp] theorem State.leaveCritical_rxIntra (s : State) : (s.leaveCritical).rxIntra = s.rxIntra := rfl
@[simp] theorem State.leaveCritical_rxStop (s : State) : (s.leaveCritical).rxStop = s.rxStop := rfl
@[simp] theorem State.leaveCritical_txDelay (s : State) : (s.leaveCritical).txDelay = s.txDelay := rfl
@[simp] theorem State.leaveCritical_head (s : State) : (s.leaveCritical).head = s.head := rfl
@[simp] theorem State.leaveCritical_tail (s : State) : (s.leaveCritical).tail = s.tail := rfl
@[simp] theorem State.leaveCritical_buf (s : State) : (s.leaveCritical).buf = s.buf := rfl
@[simp] theorem State.leaveCritical_ovf (s : State) : (s.leaveCritical).ovf = s.ovf := rfl
@[simp] theorem State.leaveCritical_armed (s : State) : (s.leaveCritical).armed = s.armed := rfl
@[simp] theorem State.leaveCritical_gie (s : State) : (s.leaveCritical).gie = s.sGie := rfl
@[simp] theorem State.leaveCritical_pending (s : State) : (s.leaveCritical).pending = s.pending := rfl
@[simp] theorem State.leaveCritical_tx (s : State) : (s.leaveCritical).tx = s.tx := rfl
@[simp] theorem State.leaveCritical_rxPrev (s : State) : (s.leaveCritical).rxPrev = s.rxPrev := rfl
@[simp] theorem State.leaveCritical_hActive (s : State) : (s.leaveCritical).hActive = s.hActive := rfl
@[simp] theorem State.leaveCritical_hPhase (s : State) : (s.leaveCritical).hPhase = s.hPhase := rfl
@[simp] theorem State.leaveCritical_acc (s : State) : (s.leaveCritical).acc = s.acc := rfl
@[simp] theorem State.leaveCritical_hSaved (s : State) : (s.leaveCritical).hSaved = s.hSaved := rfl
@[simp] theorem State.leaveCritical_hLvl (s : State) : (s.leaveCritical).hLvl = s.hLvl := rfl
@[simp] theorem State.leaveCritical_hItems (s : State) : (s.leaveCritical).hItems = s.hItems := rfl
@[simp] theorem State.leaveCritical_cp (s : State) : (s.leaveCritical).cp = s.cp := rfl
@[simp] theorem State.leaveCritical_fgItems (s : State) : (s.leaveCritical).fgItems = s.fgItems := rfl
@[simp] theorem State.leaveCritical_sGie (s : State) : (s.leaveCritical).sGie = s.sGie := rfl
@[simp] theorem State.leaveCritical_rOvf (s : State) : (s.leaveCritical).rOvf = s.rOvf := rfl
@[simp] theorem State.leaveCritical_row (s : State) : (s.leaveCritical).row = s.row := rfl
@[simp] theorem State.leaveCritical_response (s : State) : (s.leaveCritical).response = s.response := rfl
@[simp] theorem State.leaveCritical_resp (s : State) : (s.leaveCritical).resp = s.resp := rfl

/-! ### `State.dispatch` -/

@[simp] theorem State.dispatch_cfg (items : HandlerCode) (s : State) : (State.dispatch items s).cfg = s.cfg := rfl
@[simp] theorem State.dispatch_line (items : HandlerCode) (s : State) : (State.dispatch items s).line = s.line := rfl
@[simp] theorem State.dispatch_stream (items : HandlerCode) (s : State) : (State.dispatch items s).stream = s.stream := rfl
@[simp] theorem State.dispatch_foreign (items : HandlerCode) (s : State) : (State.dispatch items s).foreign = s.foreign := rfl
@[simp] theorem State.dispatch_now (items : HandlerCode) (s : State) : (State.dispatch items s).now = s.now := rfl
@[simp] theorem State.dispatch_rxCenter (items : HandlerCode) (s : State) : (State.dispatch items s).rxCenter = s.rxCenter := rfl
@[simp] theorem State.dispatch_rxIntra (items : HandlerCode) (s : State) : (State.dispatch items s).rxIntra = s.rxIntra := rfl
@[simp] theorem State.dispatch_rxStop (items : HandlerCode) (s : State) : (State.dispatch items s).rxStop = s.rxStop := rfl
@[simp] theorem State.dispatch_txDelay (items : HandlerCode) (s : State) : (State.dispatch items s).txDelay = s.txDelay := rfl
@[simp] theorem State.dispatch_head (items : HandlerCode) (s : State) : (State.dispatch items s).head = s.head := rfl
@[simp] theorem State.dispatch_tail (items : HandlerCode) (s : State) : (State.dispatch items s).tail = s.tail := rfl
@[simp] theorem State.dispatch_buf (items : HandlerCode) (s : State) : (State.dispatch items s).buf = s.buf := rfl
@[simp] theorem State.dispatch_ovf (items : HandlerCode) (s : State) : (State.dispatch items s).ovf = s.ovf := rfl
@[simp] theorem State.dispatch_armed (items : HandlerCode) (s : State) : (State.dispatch items s).armed = s.armed := rfl
@[simp] theorem State.dispatch_gie (items : HandlerCode) (s : State) : (State.dispatch items s).gie = false := rfl
@[simp] theorem State.dispatch_pending (items : HandlerCode) (s : State) : (State.dispatch items s).pending = false := rfl
@[simp] theorem State.dispatch_tx (items : HandlerCode) (s : State) : (State.dispatch items s).tx = s.tx := rfl
@[simp] theorem State.dispatch_rxPrev (items : HandlerCode) (s : State) : (State.dispatch items s).rxPrev = s.rxPrev := rfl
@[simp] theorem State.dispatch_hActive (items : HandlerCode) (s : State) : (State.dispatch items s).hActive = true := rfl
@[simp] theorem State.dispatch_hPhase (items : HandlerCode) (s : State) : (State.dispatch items s).hPhase = .startCandidate := rfl
@[simp] theorem State.dispatch_acc (items : HandlerCode) (s : State) : (State.dispatch items s).acc = s.acc := rfl
@[simp] theorem State.dispatch_hSaved (items : HandlerCode) (s : State) : (State.dispatch items s).hSaved = s.gie := rfl
@[simp] theorem State.dispatch_hLvl (items : HandlerCode) (s : State) : (State.dispatch items s).hLvl = s.hLvl := rfl
@[simp] theorem State.dispatch_hItems (items : HandlerCode) (s : State) : (State.dispatch items s).hItems = items := rfl
@[simp] theorem State.dispatch_cp (items : HandlerCode) (s : State) : (State.dispatch items s).cp = s.cp := rfl
@[simp] theorem State.dispatch_fgItems (items : HandlerCode) (s : State) : (State.dispatch items s).fgItems = s.fgItems := rfl
@[simp] theorem State.dispatch_sGie (items : HandlerCode) (s : State) : (State.dispatch items s).sGie = s.sGie := rfl
@[simp] theorem State.dispatch_rOvf (items : HandlerCode) (s : State) : (State.dispatch items s).rOvf = s.rOvf := rfl
@[simp] theorem State.dispatch_row (items : HandlerCode) (s : State) : (State.dispatch items s).row = s.row := rfl
@[simp] theorem State.dispatch_response (items : HandlerCode) (s : State) : (State.dispatch items s).response = s.response := rfl
@[simp] theorem State.dispatch_resp (items : HandlerCode) (s : State) : (State.dispatch items s).resp = s.resp := rfl

/-! ### `State.handlerReturn` -/

@[simp] theorem State.handlerReturn_cfg (s : State) : (s.handlerReturn).cfg = s.cfg := rfl
@[simp] theorem State.handlerReturn_line (s : State) : (s.handlerReturn).line = s.line := rfl
@[simp] theorem State.handlerReturn_stream (s : State) : (s.handlerReturn).stream = s.stream := rfl
@[simp] theorem State.handlerReturn_foreign (s : State) : (s.handlerReturn).foreign = s.foreign := rfl
@[simp] theorem State.handlerReturn_now (s : State) : (s.handlerReturn).now = s.now := rfl
@[simp] theorem State.handlerReturn_rxCenter (s : State) : (s.handlerReturn).rxCenter = s.rxCenter := rfl
@[simp] theorem State.handlerReturn_rxIntra (s : State) : (s.handlerReturn).rxIntra = s.rxIntra := rfl
@[simp] theorem State.handlerReturn_rxStop (s : State) : (s.handlerReturn).rxStop = s.rxStop := rfl
@[simp] theorem State.handlerReturn_txDelay (s : State) : (s.handlerReturn).txDelay = s.txDelay := rfl
@[simp] theorem State.handlerReturn_head (s : State) : (s.handlerReturn).head = s.head := rfl
@[simp] theorem State.handlerReturn_tail (s : State) : (s.handlerReturn).tail = s.tail := rfl
@[simp] theorem State.handlerReturn_buf (s : State) : (s.handlerReturn).buf = s.buf := rfl
@[simp] theorem State.handlerReturn_ovf (s : State) : (s.handlerReturn).ovf = s.ovf := rfl
@[simp] theorem State.handlerReturn_armed (s : State) : (s.handlerReturn).armed = s.armed := rfl
@[simp] theorem State.handlerReturn_gie (s : State) : (s.handlerReturn).gie = s.hSaved := rfl
@[simp] theorem State.handlerReturn_pending (s : State) : (s.handlerReturn).pending = s.pending := rfl
@[simp] theorem State.handlerReturn_tx (s : State) : (s.handlerReturn).tx = s.tx := rfl
@[simp] theorem State.handlerReturn_rxPrev (s : State) : (s.handlerReturn).rxPrev = s.rxPrev := rfl
@[simp] theorem State.handlerReturn_hActive (s : State) : (s.handlerReturn).hActive = false := rfl
@[simp] theorem State.handlerReturn_hPhase (s : State) : (s.handlerReturn).hPhase = s.hPhase := rfl
@[simp] theorem State.handlerReturn_acc (s : State) : (s.handlerReturn).acc = s.acc := rfl
@[simp] theorem State.handlerReturn_hSaved (s : State) : (s.handlerReturn).hSaved = s.hSaved := rfl
@[simp] theorem State.handlerReturn_hLvl (s : State) : (s.handlerReturn).hLvl = s.hLvl := rfl
@[simp] theorem State.handlerReturn_hItems (s : State) : (s.handlerReturn).hItems = s.hItems := rfl
@[simp] theorem State.handlerReturn_cp (s : State) : (s.handlerReturn).cp = s.cp := rfl
@[simp] theorem State.handlerReturn_fgItems (s : State) : (s.handlerReturn).fgItems = s.fgItems := rfl
@[simp] theorem State.handlerReturn_sGie (s : State) : (s.handlerReturn).sGie = s.sGie := rfl
@[simp] theorem State.handlerReturn_rOvf (s : State) : (s.handlerReturn).rOvf = s.rOvf := rfl
@[simp] theorem State.handlerReturn_row (s : State) : (s.handlerReturn).row = s.row := rfl
@[simp] theorem State.handlerReturn_response (s : State) : (s.handlerReturn).response = s.response := rfl
@[simp] theorem State.handlerReturn_resp (s : State) : (s.handlerReturn).resp = s.resp := rfl

/-! ### `State.edgeDetect` -/

@[simp] theorem State.edgeDetect_cfg (s : State) : (s.edgeDetect).cfg = s.cfg := rfl
@[simp] theorem State.edgeDetect_line (s : State) : (s.edgeDetect).line = s.line := rfl
@[simp] theorem State.edgeDetect_stream (s : State) : (s.edgeDetect).stream = s.stream := rfl
@[simp] theorem State.edgeDetect_foreign (s : State) : (s.edgeDetect).foreign = s.foreign := rfl
@[simp] theorem State.edgeDetect_now (s : State) : (s.edgeDetect).now = s.now := rfl
@[simp] theorem State.edgeDetect_rxCenter (s : State) : (s.edgeDetect).rxCenter = s.rxCenter := rfl
@[simp] theorem State.edgeDetect_rxIntra (s : State) : (s.edgeDetect).rxIntra = s.rxIntra := rfl
@[simp] theorem State.edgeDetect_rxStop (s : State) : (s.edgeDetect).rxStop = s.rxStop := rfl
@[simp] theorem State.edgeDetect_txDelay (s : State) : (s.edgeDetect).txDelay = s.txDelay := rfl
@[simp] theorem State.edgeDetect_head (s : State) : (s.edgeDetect).head = s.head := rfl
@[simp] theorem State.edgeDetect_tail (s : State) : (s.edgeDetect).tail = s.tail := rfl
@[simp] theorem State.edgeDetect_buf (s : State) : (s.edgeDetect).buf = s.buf := rfl
@[simp] theorem State.edgeDetect_ovf (s : State) : (s.edgeDetect).ovf = s.ovf := rfl
@[simp] theorem State.edgeDetect_armed (s : State) : (s.edgeDetect).armed = s.armed := rfl
@[simp] theorem State.edgeDetect_gie (s : State) : (s.edgeDetect).gie = s.gie := rfl
@[simp] theorem State.edgeDetect_pending (s : State) : (s.edgeDetect).pending = (s.pending || (s.rxNow != s.rxPrev && (s.armed || s.cfg.pLatchDisarmed))) := rfl
@[simp] theorem State.edgeDetect_tx (s : State) : (s.edgeDetect).tx = s.tx := rfl
@[simp] theorem State.edgeDetect_rxPrev (s : State) : (s.edgeDetect).rxPrev = s.rxNow := rfl
@[simp] theorem State.edgeDetect_hActive (s : State) : (s.edgeDetect).hActive = s.hActive := rfl
@[simp] theorem State.edgeDetect_hPhase (s : State) : (s.edgeDetect).hPhase = s.hPhase := rfl
@[simp] theorem State.edgeDetect_acc (s : State) : (s.edgeDetect).acc = s.acc := rfl
@[simp] theorem State.edgeDetect_hSaved (s : State) : (s.edgeDetect).hSaved = s.hSaved := rfl
@[simp] theorem State.edgeDetect_hLvl (s : State) : (s.edgeDetect).hLvl = s.hLvl := rfl
@[simp] theorem State.edgeDetect_hItems (s : State) : (s.edgeDetect).hItems = s.hItems := rfl
@[simp] theorem State.edgeDetect_cp (s : State) : (s.edgeDetect).cp = s.cp := rfl
@[simp] theorem State.edgeDetect_fgItems (s : State) : (s.edgeDetect).fgItems = s.fgItems := rfl
@[simp] theorem State.edgeDetect_sGie (s : State) : (s.edgeDetect).sGie = s.sGie := rfl
@[simp] theorem State.edgeDetect_rOvf (s : State) : (s.edgeDetect).rOvf = s.rOvf := rfl
@[simp] theorem State.edgeDetect_row (s : State) : (s.edgeDetect).row = s.row := rfl
@[simp] theorem State.edgeDetect_response (s : State) : (s.edgeDetect).response = s.response := rfl
@[simp] theorem State.edgeDetect_resp (s : State) : (s.edgeDetect).resp = s.resp := rfl

/-! ### `State.takeCommand` -/

@[simp] theorem State.takeCommand_cfg (s : State) : (s.takeCommand).cfg = s.cfg := rfl
@[simp] theorem State.takeCommand_line (s : State) : (s.takeCommand).line = s.line := rfl
@[simp] theorem State.takeCommand_stream (s : State) : (s.takeCommand).stream = s.stream := rfl
@[simp] theorem State.takeCommand_foreign (s : State) : (s.takeCommand).foreign = s.foreign := rfl
@[simp] theorem State.takeCommand_now (s : State) : (s.takeCommand).now = s.now := rfl
@[simp] theorem State.takeCommand_rxCenter (s : State) : (s.takeCommand).rxCenter = s.rxCenter := rfl
@[simp] theorem State.takeCommand_rxIntra (s : State) : (s.takeCommand).rxIntra = s.rxIntra := rfl
@[simp] theorem State.takeCommand_rxStop (s : State) : (s.takeCommand).rxStop = s.rxStop := rfl
@[simp] theorem State.takeCommand_txDelay (s : State) : (s.takeCommand).txDelay = s.txDelay := rfl
@[simp] theorem State.takeCommand_head (s : State) : (s.takeCommand).head = s.head := rfl
@[simp] theorem State.takeCommand_tail (s : State) : (s.takeCommand).tail = s.tail := rfl
@[simp] theorem State.takeCommand_buf (s : State) : (s.takeCommand).buf = s.buf := rfl
@[simp] theorem State.takeCommand_ovf (s : State) : (s.takeCommand).ovf = s.ovf := rfl
@[simp] theorem State.takeCommand_armed (s : State) : (s.takeCommand).armed = s.armed := rfl
@[simp] theorem State.takeCommand_gie (s : State) : (s.takeCommand).gie = s.gie := rfl
@[simp] theorem State.takeCommand_pending (s : State) : (s.takeCommand).pending = s.pending := rfl
@[simp] theorem State.takeCommand_tx (s : State) : (s.takeCommand).tx = s.tx := rfl
@[simp] theorem State.takeCommand_rxPrev (s : State) : (s.takeCommand).rxPrev = s.rxPrev := rfl
@[simp] theorem State.takeCommand_hActive (s : State) : (s.takeCommand).hActive = s.hActive := rfl
@[simp] theorem State.takeCommand_hPhase (s : State) : (s.takeCommand).hPhase = s.hPhase := rfl
@[simp] theorem State.takeCommand_acc (s : State) : (s.takeCommand).acc = s.acc := rfl
@[simp] theorem State.takeCommand_hSaved (s : State) : (s.takeCommand).hSaved = s.hSaved := rfl
@[simp] theorem State.takeCommand_hLvl (s : State) : (s.takeCommand).hLvl = s.hLvl := rfl
@[simp] theorem State.takeCommand_hItems (s : State) : (s.takeCommand).hItems = s.hItems := rfl
@[simp] theorem State.takeCommand_cp (s : State) : (s.takeCommand).cp = s.cp + 1 := rfl
@[simp] theorem State.takeCommand_fgItems (s : State) : (s.takeCommand).fgItems = s.fgItems := rfl
@[simp] theorem State.takeCommand_sGie (s : State) : (s.takeCommand).sGie = s.sGie := rfl
@[simp] theorem State.takeCommand_rOvf (s : State) : (s.takeCommand).rOvf = s.rOvf := rfl
@[simp] theorem State.takeCommand_row (s : State) : (s.takeCommand).row = s.row := rfl
@[simp] theorem State.takeCommand_response (s : State) : (s.takeCommand).response = s.response := rfl
@[simp] theorem State.takeCommand_resp (s : State) : (s.takeCommand).resp = s.resp := rfl

/-! ### `State.startCheck` -/

@[simp] theorem State.startCheck_cfg (s : State) : (s.startCheck).cfg = s.cfg := rfl
@[simp] theorem State.startCheck_line (s : State) : (s.startCheck).line = s.line := rfl
@[simp] theorem State.startCheck_stream (s : State) : (s.startCheck).stream = s.stream := rfl
@[simp] theorem State.startCheck_foreign (s : State) : (s.startCheck).foreign = s.foreign := rfl
@[simp] theorem State.startCheck_now (s : State) : (s.startCheck).now = s.now := rfl
@[simp] theorem State.startCheck_rxCenter (s : State) : (s.startCheck).rxCenter = s.rxCenter := rfl
@[simp] theorem State.startCheck_rxIntra (s : State) : (s.startCheck).rxIntra = s.rxIntra := rfl
@[simp] theorem State.startCheck_rxStop (s : State) : (s.startCheck).rxStop = s.rxStop := rfl
@[simp] theorem State.startCheck_txDelay (s : State) : (s.startCheck).txDelay = s.txDelay := rfl
@[simp] theorem State.startCheck_head (s : State) : (s.startCheck).head = s.head := rfl
@[simp] theorem State.startCheck_tail (s : State) : (s.startCheck).tail = s.tail := rfl
@[simp] theorem State.startCheck_buf (s : State) : (s.startCheck).buf = s.buf := rfl
@[simp] theorem State.startCheck_ovf (s : State) : (s.startCheck).ovf = s.ovf := rfl
@[simp] theorem State.startCheck_armed (s : State) : (s.startCheck).armed = s.armed := rfl
@[simp] theorem State.startCheck_gie (s : State) : (s.startCheck).gie = s.gie := rfl
@[simp] theorem State.startCheck_pending (s : State) : (s.startCheck).pending = s.pending := rfl
@[simp] theorem State.startCheck_tx (s : State) : (s.startCheck).tx = s.tx := rfl
@[simp] theorem State.startCheck_rxPrev (s : State) : (s.startCheck).rxPrev = s.rxPrev := rfl
@[simp] theorem State.startCheck_hActive (s : State) : (s.startCheck).hActive = s.hActive := rfl
@[simp] theorem State.startCheck_hPhase (s : State) : (s.startCheck).hPhase = (if s.rxNow then s.hPhase else .sampling 0) := rfl
@[simp] theorem State.startCheck_acc (s : State) : (s.startCheck).acc = s.acc := rfl
@[simp] theorem State.startCheck_hSaved (s : State) : (s.startCheck).hSaved = s.hSaved := rfl
@[simp] theorem State.startCheck_hLvl (s : State) : (s.startCheck).hLvl = s.rxNow := rfl
@[simp] theorem State.startCheck_hItems (s : State) : (s.startCheck).hItems = s.hItems := rfl
@[simp] theorem State.startCheck_cp (s : State) : (s.startCheck).cp = s.cp := rfl
@[simp] theorem State.startCheck_fgItems (s : State) : (s.startCheck).fgItems = s.fgItems := rfl
@[simp] theorem State.startCheck_sGie (s : State) : (s.startCheck).sGie = s.sGie := rfl
@[simp] theorem State.startCheck_rOvf (s : State) : (s.startCheck).rOvf = s.rOvf := rfl
@[simp] theorem State.startCheck_row (s : State) : (s.startCheck).row = s.row := rfl
@[simp] theorem State.startCheck_response (s : State) : (s.startCheck).response = s.response := rfl
@[simp] theorem State.startCheck_resp (s : State) : (s.startCheck).resp = s.resp := rfl

/-! ### `State.sampleBit` -/

@[simp] theorem State.sampleBit_cfg (i : Fin 8) (s : State) : (s.sampleBit i).cfg = s.cfg := rfl
@[simp] theorem State.sampleBit_line (i : Fin 8) (s : State) : (s.sampleBit i).line = s.line := rfl
@[simp] theorem State.sampleBit_stream (i : Fin 8) (s : State) : (s.sampleBit i).stream = s.stream := rfl
@[simp] theorem State.sampleBit_foreign (i : Fin 8) (s : State) : (s.sampleBit i).foreign = s.foreign := rfl
@[simp] theorem State.sampleBit_now (i : Fin 8) (s : State) : (s.sampleBit i).now = s.now := rfl
@[simp] theorem State.sampleBit_rxCenter (i : Fin 8) (s : State) : (s.sampleBit i).rxCenter = s.rxCenter := rfl
@[simp] theorem State.sampleBit_rxIntra (i : Fin 8) (s : State) : (s.sampleBit i).rxIntra = s.rxIntra := rfl
@[simp] theorem State.sampleBit_rxStop (i : Fin 8) (s : State) : (s.sampleBit i).rxStop = s.rxStop := rfl
@[simp] theorem State.sampleBit_txDelay (i : Fin 8) (s : State) : (s.sampleBit i).txDelay = s.txDelay := rfl
@[simp] theorem State.sampleBit_head (i : Fin 8) (s : State) : (s.sampleBit i).head = s.head := rfl
@[simp] theorem State.sampleBit_tail (i : Fin 8) (s : State) : (s.sampleBit i).tail = s.tail := rfl
@[simp] theorem State.sampleBit_buf (i : Fin 8) (s : State) : (s.sampleBit i).buf = s.buf := rfl
@[simp] theorem State.sampleBit_ovf (i : Fin 8) (s : State) : (s.sampleBit i).ovf = s.ovf := rfl
@[simp] theorem State.sampleBit_armed (i : Fin 8) (s : State) : (s.sampleBit i).armed = s.armed := rfl
@[simp] theorem State.sampleBit_gie (i : Fin 8) (s : State) : (s.sampleBit i).gie = s.gie := rfl
@[simp] theorem State.sampleBit_pending (i : Fin 8) (s : State) : (s.sampleBit i).pending = s.pending := rfl
@[simp] theorem State.sampleBit_tx (i : Fin 8) (s : State) : (s.sampleBit i).tx = s.tx := rfl
@[simp] theorem State.sampleBit_rxPrev (i : Fin 8) (s : State) : (s.sampleBit i).rxPrev = s.rxPrev := rfl
@[simp] theorem State.sampleBit_hActive (i : Fin 8) (s : State) : (s.sampleBit i).hActive = s.hActive := rfl
@[simp] theorem State.sampleBit_hPhase (i : Fin 8) (s : State) : (s.sampleBit i).hPhase = phaseAfterSample i := rfl
@[simp] theorem State.sampleBit_acc (i : Fin 8) (s : State) : (s.sampleBit i).acc = s.acc.setBit i s.rxNow := rfl
@[simp] theorem State.sampleBit_hSaved (i : Fin 8) (s : State) : (s.sampleBit i).hSaved = s.hSaved := rfl
@[simp] theorem State.sampleBit_hLvl (i : Fin 8) (s : State) : (s.sampleBit i).hLvl = s.hLvl := rfl
@[simp] theorem State.sampleBit_hItems (i : Fin 8) (s : State) : (s.sampleBit i).hItems = s.hItems := rfl
@[simp] theorem State.sampleBit_cp (i : Fin 8) (s : State) : (s.sampleBit i).cp = s.cp := rfl
@[simp] theorem State.sampleBit_fgItems (i : Fin 8) (s : State) : (s.sampleBit i).fgItems = s.fgItems := rfl
@[simp] theorem State.sampleBit_sGie (i : Fin 8) (s : State) : (s.sampleBit i).sGie = s.sGie := rfl
@[simp] theorem State.sampleBit_rOvf (i : Fin 8) (s : State) : (s.sampleBit i).rOvf = s.rOvf := rfl
@[simp] theorem State.sampleBit_row (i : Fin 8) (s : State) : (s.sampleBit i).row = s.row := rfl
@[simp] theorem State.sampleBit_response (i : Fin 8) (s : State) : (s.sampleBit i).response = s.response := rfl
@[simp] theorem State.sampleBit_resp (i : Fin 8) (s : State) : (s.sampleBit i).resp = s.resp := rfl

/-! ### `State.resetIndices` -/

@[simp] theorem State.resetIndices_cfg (s : State) : (s.resetIndices).cfg = s.cfg := rfl
@[simp] theorem State.resetIndices_line (s : State) : (s.resetIndices).line = s.line := rfl
@[simp] theorem State.resetIndices_stream (s : State) : (s.resetIndices).stream = s.stream := rfl
@[simp] theorem State.resetIndices_foreign (s : State) : (s.resetIndices).foreign = s.foreign := rfl
@[simp] theorem State.resetIndices_now (s : State) : (s.resetIndices).now = s.now := rfl
@[simp] theorem State.resetIndices_rxCenter (s : State) : (s.resetIndices).rxCenter = s.rxCenter := rfl
@[simp] theorem State.resetIndices_rxIntra (s : State) : (s.resetIndices).rxIntra = s.rxIntra := rfl
@[simp] theorem State.resetIndices_rxStop (s : State) : (s.resetIndices).rxStop = s.rxStop := rfl
@[simp] theorem State.resetIndices_txDelay (s : State) : (s.resetIndices).txDelay = s.txDelay := rfl
@[simp] theorem State.resetIndices_head (s : State) : (s.resetIndices).head = 0 := rfl
@[simp] theorem State.resetIndices_tail (s : State) : (s.resetIndices).tail = 0 := rfl
@[simp] theorem State.resetIndices_buf (s : State) : (s.resetIndices).buf = s.buf := rfl
@[simp] theorem State.resetIndices_ovf (s : State) : (s.resetIndices).ovf = s.ovf := rfl
@[simp] theorem State.resetIndices_armed (s : State) : (s.resetIndices).armed = s.armed := rfl
@[simp] theorem State.resetIndices_gie (s : State) : (s.resetIndices).gie = s.gie := rfl
@[simp] theorem State.resetIndices_pending (s : State) : (s.resetIndices).pending = s.pending := rfl
@[simp] theorem State.resetIndices_tx (s : State) : (s.resetIndices).tx = s.tx := rfl
@[simp] theorem State.resetIndices_rxPrev (s : State) : (s.resetIndices).rxPrev = s.rxPrev := rfl
@[simp] theorem State.resetIndices_hActive (s : State) : (s.resetIndices).hActive = s.hActive := rfl
@[simp] theorem State.resetIndices_hPhase (s : State) : (s.resetIndices).hPhase = s.hPhase := rfl
@[simp] theorem State.resetIndices_acc (s : State) : (s.resetIndices).acc = s.acc := rfl
@[simp] theorem State.resetIndices_hSaved (s : State) : (s.resetIndices).hSaved = s.hSaved := rfl
@[simp] theorem State.resetIndices_hLvl (s : State) : (s.resetIndices).hLvl = s.hLvl := rfl
@[simp] theorem State.resetIndices_hItems (s : State) : (s.resetIndices).hItems = s.hItems := rfl
@[simp] theorem State.resetIndices_cp (s : State) : (s.resetIndices).cp = s.cp := rfl
@[simp] theorem State.resetIndices_fgItems (s : State) : (s.resetIndices).fgItems = s.fgItems := rfl
@[simp] theorem State.resetIndices_sGie (s : State) : (s.resetIndices).sGie = s.sGie := rfl
@[simp] theorem State.resetIndices_rOvf (s : State) : (s.resetIndices).rOvf = s.rOvf := rfl
@[simp] theorem State.resetIndices_row (s : State) : (s.resetIndices).row = s.row := rfl
@[simp] theorem State.resetIndices_response (s : State) : (s.resetIndices).response = s.response := rfl
@[simp] theorem State.resetIndices_resp (s : State) : (s.resetIndices).resp = s.resp := rfl

/-! ### `State.respond` -/

@[simp] theorem State.respond_cfg (v : Response) (s : State) : (s.respond v).cfg = s.cfg := rfl
@[simp] theorem State.respond_line (v : Response) (s : State) : (s.respond v).line = s.line := rfl
@[simp] theorem State.respond_stream (v : Response) (s : State) : (s.respond v).stream = s.stream := rfl
@[simp] theorem State.respond_foreign (v : Response) (s : State) : (s.respond v).foreign = s.foreign := rfl
@[simp] theorem State.respond_now (v : Response) (s : State) : (s.respond v).now = s.now := rfl
@[simp] theorem State.respond_rxCenter (v : Response) (s : State) : (s.respond v).rxCenter = s.rxCenter := rfl
@[simp] theorem State.respond_rxIntra (v : Response) (s : State) : (s.respond v).rxIntra = s.rxIntra := rfl
@[simp] theorem State.respond_rxStop (v : Response) (s : State) : (s.respond v).rxStop = s.rxStop := rfl
@[simp] theorem State.respond_txDelay (v : Response) (s : State) : (s.respond v).txDelay = s.txDelay := rfl
@[simp] theorem State.respond_head (v : Response) (s : State) : (s.respond v).head = s.head := rfl
@[simp] theorem State.respond_tail (v : Response) (s : State) : (s.respond v).tail = s.tail := rfl
@[simp] theorem State.respond_buf (v : Response) (s : State) : (s.respond v).buf = s.buf := rfl
@[simp] theorem State.respond_ovf (v : Response) (s : State) : (s.respond v).ovf = s.ovf := rfl
@[simp] theorem State.respond_armed (v : Response) (s : State) : (s.respond v).armed = s.armed := rfl
@[simp] theorem State.respond_gie (v : Response) (s : State) : (s.respond v).gie = s.gie := rfl
@[simp] theorem State.respond_pending (v : Response) (s : State) : (s.respond v).pending = s.pending := rfl
@[simp] theorem State.respond_tx (v : Response) (s : State) : (s.respond v).tx = s.tx := rfl
@[simp] theorem State.respond_rxPrev (v : Response) (s : State) : (s.respond v).rxPrev = s.rxPrev := rfl
@[simp] theorem State.respond_hActive (v : Response) (s : State) : (s.respond v).hActive = s.hActive := rfl
@[simp] theorem State.respond_hPhase (v : Response) (s : State) : (s.respond v).hPhase = s.hPhase := rfl
@[simp] theorem State.respond_acc (v : Response) (s : State) : (s.respond v).acc = s.acc := rfl
@[simp] theorem State.respond_hSaved (v : Response) (s : State) : (s.respond v).hSaved = s.hSaved := rfl
@[simp] theorem State.respond_hLvl (v : Response) (s : State) : (s.respond v).hLvl = s.hLvl := rfl
@[simp] theorem State.respond_hItems (v : Response) (s : State) : (s.respond v).hItems = s.hItems := rfl
@[simp] theorem State.respond_cp (v : Response) (s : State) : (s.respond v).cp = s.cp := rfl
@[simp] theorem State.respond_fgItems (v : Response) (s : State) : (s.respond v).fgItems = s.fgItems := rfl
@[simp] theorem State.respond_sGie (v : Response) (s : State) : (s.respond v).sGie = s.sGie := rfl
@[simp] theorem State.respond_rOvf (v : Response) (s : State) : (s.respond v).rOvf = s.rOvf := rfl
@[simp] theorem State.respond_row (v : Response) (s : State) : (s.respond v).row = s.row := rfl
@[simp] theorem State.respond_response (v : Response) (s : State) : (s.respond v).response = some v := rfl
@[simp] theorem State.respond_resp (v : Response) (s : State) : (s.respond v).resp = s.resp := rfl

end Sys2Proof.Machine
end

