-- ==== Sys2Proof/Laws/Advance.lean ====
section
/-! SUPPORT. What advancing a context by one cycle can do (00_scope.md R12), said once: its equations, what every action
keeps is kept, and a property of state and list that each item hands on holds of the state and the list it ends with. -/

namespace Sys2Proof.Machine

variable {α κ : Type} {run : α → State → Except Fault State} {holds : κ → State → Bool}

@[simp] theorem Code.waitThen_zero (rest : Code α κ) : Code.waitThen 0 rest = rest := rfl

@[simp] theorem Code.waitThen_succ (n : Nat) (rest : Code α κ) :
    Code.waitThen (n + 1) rest = .wait (n + 1) rest := rfl

@[simp] theorem Code.isDone_iff (code : Code α κ) : code.isDone = true ↔ code = .done := by
  cases code <;> simp [Code.isDone]

@[simp] theorem advance_done (s : State) : advance run holds .done s = .ok (s, .done) := rfl

@[simp] theorem advance_wait_zero (rest : Code α κ) (s : State) :
    advance run holds (.wait 0 rest) s = advance run holds rest s := rfl

@[simp] theorem advance_wait_succ (n : Nat) (rest : Code α κ) (s : State) :
    advance run holds (.wait (n + 1) rest) s = .ok (s, Code.waitThen n rest) := rfl

/-- `delay(n)` is `wait(n * K)` (R11). -/
@[simp] theorem advance_delay (d : TickSource) (rest : Code α κ) (s : State) :
    advance run holds (.delay d rest) s = advance run holds (.wait (s.delayCycles d) rest) s := by
  cases hn : s.delayCycles d <;> simp [advance, hn]

theorem advance_act {a : α} {s t : State} (rest : Code α κ) (h : run a s = .ok t) :
    advance run holds (.act a rest) s = advance run holds rest t := by
  simp [advance, h]

theorem advance_act_error {a : α} {s : State} {f : Fault} (rest : Code α κ) (h : run a s = .error f) :
    advance run holds (.act a rest) s = .error f := by
  simp [advance, h]

@[simp] theorem advance_test (c : κ) (yes no : Code α κ) (s : State) :
    advance run holds (.test c yes no) s =
      if holds c s then advance run holds yes s else advance run holds no s := rfl

@[simp] theorem advance_raise (f : Fault) (s : State) : advance run holds (.raise f) s = .error f := rfl

/-- A relation between the state and the list still to run that each item hands on. -/
structure HandsOn (run : α → State → Except Fault State) (holds : κ → State → Bool)
    (R : State → Code α κ → Prop) : Prop where
  wait : ∀ s n rest, R s (.wait n rest) → R s rest ∧ ∀ m, R s (.wait m rest)
  delay : ∀ s d rest, R s (.delay d rest) → R s rest ∧ ∀ m, R s (.wait m rest)
  act : ∀ s t a rest, R s (.act a rest) → run a s = .ok t → R t rest
  yes : ∀ s c y n, R s (.test c y n) → holds c s = true → R s y
  no : ∀ s c y n, R s (.test c y n) → holds c s = false → R s n

theorem HandsOn.waitThen {R : State → Code α κ → Prop} {s : State} {rest : Code α κ}
    (h : R s rest ∧ ∀ m, R s (.wait m rest)) (n : Nat) : R s (Code.waitThen n rest) := by
  cases n with
  | zero => exact h.1
  | succ n => exact h.2 (n + 1)

/-- How a cycle ends: with nothing left, or in a wait, whose rest the relation holds of (R12). -/
theorem HandsOn.advance_ends {R : State → Code α κ → Prop} (hR : HandsOn run holds R) {code rest : Code α κ}
    {s t : State} (hstart : R s code) (h : Sys2Proof.Machine.advance run holds code s = .ok (t, rest)) :
    (rest = .done ∧ R t .done) ∨ ∃ n k, rest = Code.waitThen n k ∧ R t k ∧ ∀ m, R t (.wait m k) := by
  induction code generalizing s with
  | done =>
    simp only [advance_done, Except.ok.injEq, Prod.mk.injEq] at h
    obtain ⟨rfl, rfl⟩ := h
    exact .inl ⟨rfl, hstart⟩
  | wait n k ih =>
    have hk := hR.wait s n k hstart
    cases n with
    | zero => exact ih hk.1 h
    | succ n =>
      simp only [advance_wait_succ, Except.ok.injEq, Prod.mk.injEq] at h
      obtain ⟨rfl, rfl⟩ := h
      exact .inr ⟨n, k, rfl, hk⟩
  | delay d k ih =>
    have hk := hR.delay s d k hstart
    rw [advance_delay] at h
    cases hn : s.delayCycles d with
    | zero => rw [hn] at h; exact ih hk.1 h
    | succ n =>
      rw [hn] at h
      simp only [advance_wait_succ, Except.ok.injEq, Prod.mk.injEq] at h
      obtain ⟨rfl, rfl⟩ := h
      exact .inr ⟨n, k, rfl, hk⟩
  | act a k ih =>
    cases ha : run a s with
    | error f => rw [advance_act_error k ha] at h; cases h
    | ok u => rw [advance_act k ha] at h; exact ih (hR.act s u a k hstart ha) h
  | test c y n ihy ihn =>
    rw [advance_test] at h
    cases hc : holds c s with
    | true => rw [hc] at h; exact ihy (hR.yes s c y n hstart hc) h
    | false => rw [hc] at h; exact ihn (hR.no s c y n hstart hc) h
  | raise f => simp at h

/-- The relation holds of the state and the list a cycle ends with. -/
theorem HandsOn.advance {R : State → Code α κ → Prop} (hR : HandsOn run holds R) {code rest : Code α κ} {s t : State}
    (hstart : R s code) (h : advance run holds code s = .ok (t, rest)) : R t rest := by
  rcases hR.advance_ends hstart h with ⟨rfl, hd⟩ | ⟨n, k, rfl, hk⟩
  · exact hd
  · exact HandsOn.waitThen hk n

/-- A cycle faults only where an action of the list faults or the list raises, in a state the relation holds of. -/
theorem HandsOn.advance_error {R : State → Code α κ → Prop} (hR : HandsOn run holds R) {code : Code α κ} {s : State}
    {f : Fault} (hstart : R s code) (h : Sys2Proof.Machine.advance run holds code s = .error f) :
    (∃ t a rest, R t (.act a rest) ∧ run a t = .error f) ∨ ∃ t, R t (.raise f) := by
  induction code generalizing s with
  | done => simp at h
  | wait n k ih =>
    cases n with
    | zero => exact ih ((hR.wait s 0 k hstart).1) h
    | succ n => simp at h
  | delay d k ih =>
    rw [advance_delay] at h
    cases hn : s.delayCycles d with
    | zero => rw [hn] at h; exact ih ((hR.delay s d k hstart).1) h
    | succ n => rw [hn] at h; simp at h
  | act a k ih =>
    cases ha : run a s with
    | error g =>
      rw [advance_act_error k ha] at h
      cases h
      exact .inl ⟨s, a, k, hstart, ha⟩
    | ok u => rw [advance_act k ha] at h; exact ih (hR.act s u a k hstart ha) h
  | test c y n ihy ihn =>
    rw [advance_test] at h
    cases hc : holds c s with
    | true => rw [hc] at h; exact ihy (hR.yes s c y n hstart hc) h
    | false => rw [hc] at h; exact ihn (hR.no s c y n hstart hc) h
  | raise g => simp only [advance_raise, Except.error.injEq] at h; subst h; exact .inr ⟨s, hstart⟩

/-- What every action keeps, a cycle keeps. -/
theorem advance_keeps {P : State → Prop} (hact : ∀ a s t, run a s = .ok t → P s → P t) {code rest : Code α κ}
    {s t : State} (h : advance run holds code s = .ok (t, rest)) (hs : P s) : P t :=
  HandsOn.advance (R := fun s _ => P s)
    ⟨fun _ _ _ h => ⟨h, fun _ => h⟩, fun _ _ _ h => ⟨h, fun _ => h⟩, fun s t a _ hP hr => hact a s t hr hP, fun _ _ _ _ h _ => h,
      fun _ _ _ _ h _ => h⟩ hs h

end Sys2Proof.Machine
end

