-- ==== Sys2Proof/Laws/Actions.lean ====
section
/-! SUPPORT. What each context's actions keep: the inversion of `push`, and the frames of the handler's and the
foreground's actions. -/

namespace Sys2Proof.Machine

/-- The fields no action of either context writes: the inputs, the time base, the edge detector, and the sequencer. -/
def State.unacted (s : State) : Params × Line × List Word × List Nat × Nat × Bit × Bit × Nat :=
  (s.cfg, s.line, s.stream, s.foreign, s.now, s.pending, s.rxPrev, s.cp)

/-- The handler's context and the buffer's slots. -/
def State.handlerContext (s : State) : (Bit × Phase × Byte × Bit) × Bit × HandlerCode × Memory :=
  ((s.hActive, s.hPhase, s.acc, s.hSaved), s.hLvl, s.hItems, s.buf)

/-- The foreground's context, the timing registers, `head`, `armed` and `tx`: what the handler never writes (R129). -/
def State.foregroundContext (s : State) :
    (Ticks × Ticks × Ticks × Ticks) × (Byte × Bit × Bit) × Nat × FgCode × (Bit × Bit × Option CalRow) ×
      Option Response × Option Response :=
  ((s.rxCenter, s.rxIntra, s.rxStop, s.txDelay), (s.head, s.armed, s.tx), s.cp, s.fgItems, (s.sGie, s.rOvf, s.row),
    s.response, s.resp)

/-- `push` stores the byte and advances `tail`, or sets `ovf`, or faults at a slot outside the buffer (43 R101). -/
theorem push_cases {s t : State} {v : Byte} {stored : Bool} (h : s.push v = .ok (stored, t)) :
    (s.isFull = true ∧ stored = false ∧ t = { s with ovf := true }) ∨
      (s.isFull = false ∧ stored = true ∧ s.tail.toNat < s.cfg.c ∧
        t = { s with buf := s.buf.write s.tail.toNat v, tail := nextIndex s.cfg.c s.tail }) := by
  unfold State.push State.writeSlot at h
  cases hf : s.isFull with
  | true =>
    simp only [hf, if_true, Except.ok.injEq, Prod.mk.injEq] at h
    exact .inl ⟨rfl, h.1.symm, h.2.symm⟩
  | false =>
    by_cases hc : s.tail.toNat < s.cfg.c
    · simp only [hf, hc, if_true, Bool.false_eq_true, if_false, Except.ok.injEq, Prod.mk.injEq] at h
      exact .inr ⟨rfl, h.1.symm, hc, h.2.symm⟩
    · simp [hf, hc] at h

/-- The commit is a `push` of the accumulator (42 R93). -/
theorem commit_cases {s t : State} (h : s.commit = .ok t) :
    (s.isFull = true ∧ t = { s with ovf := true, hPhase := .committed }) ∨
      (s.isFull = false ∧ s.tail.toNat < s.cfg.c ∧
        t = { s with
          buf := s.buf.write s.tail.toNat s.acc, tail := nextIndex s.cfg.c s.tail, hPhase := .committed }) := by
  unfold State.commit at h
  cases hp : s.push s.acc with
  | error f => simp [hp] at h
  | ok r =>
    obtain ⟨stored, u⟩ := r
    simp only [hp, Except.ok.injEq] at h
    subst h
    rcases push_cases hp with ⟨hf, -, rfl⟩ | ⟨hf, -, hc, rfl⟩
    · exact .inl ⟨hf, rfl⟩
    · exact .inr ⟨hf, hc, rfl⟩

/-- What the handler's actions keep. -/
theorem runHandlerAct_keeps {a : HandlerAct} {s t : State} (h : runHandlerAct a s = .ok t) :
    t.unacted = s.unacted ∧ t.foregroundContext = s.foregroundContext ∧ t.hItems = s.hItems := by
  cases a with
  | commit => rcases commit_cases h with ⟨-, rfl⟩ | ⟨-, -, rfl⟩ <;> exact ⟨rfl, rfl, rfl⟩
  | startCheck => cases h; exact ⟨rfl, rfl, rfl⟩
  | sample i => cases h; exact ⟨rfl, rfl, rfl⟩
  | leave => cases h; exact ⟨rfl, rfl, rfl⟩

/-- READ's action: a pop and its response (43 R104). -/
theorem respondPop_cases {s t : State} (h : s.respondPop = .ok t) :
    (s.isEmpty = true ∧ t = { s with response := some Response.minusOne }) ∨
      (s.isEmpty = false ∧ s.head.toNat < s.cfg.c ∧
        t = { s with
          head := nextIndex s.cfg.c s.head
          response := some ((s.buf.read s.head.toNat).zeroExtend 16) }) := by
  unfold State.respondPop State.pop State.readSlot at h
  cases he : s.isEmpty with
  | true =>
    simp only [he, if_true, Except.ok.injEq] at h
    exact .inl ⟨rfl, h.symm⟩
  | false =>
    by_cases hc : s.head.toNat < s.cfg.c
    · simp only [he, hc, if_true, Bool.false_eq_true, if_false, Except.ok.injEq] at h
      exact .inr ⟨rfl, hc, h.symm⟩
    · simp [he, hc] at h

/-- PEEK's action (43 R105). -/
theorem respondPeek_cases {s t : State} (h : s.respondPeek = .ok t) :
    (s.isEmpty = true ∧ t = { s with response := some Response.minusOne }) ∨
      (s.isEmpty = false ∧ s.head.toNat < s.cfg.c ∧
        t = { s with response := some ((s.buf.read s.head.toNat).zeroExtend 16) }) := by
  unfold State.respondPeek State.peekFront State.readSlot at h
  cases he : s.isEmpty with
  | true =>
    simp only [he, if_true, Except.ok.injEq] at h
    exact .inl ⟨rfl, h.symm⟩
  | false =>
    by_cases hc : s.head.toNat < s.cfg.c
    · simp only [he, hc, if_true, Bool.false_eq_true, if_false, Except.ok.injEq] at h
      exact .inr ⟨rfl, hc, h.symm⟩
    · simp [he, hc] at h

/-- BEGIN's install action, by the lookup's result (40 R72). -/
theorem beginSession_eq (s : State) (baud : Nat) :
    s.beginSession baud =
      match lookupRow s.cfg.calTable baud with
      | some r => { s with
          rxCenter := BitVec.ofNat 16 r.center, rxIntra := BitVec.ofNat 16 r.intra
          rxStop := BitVec.ofNat 16 r.stop, txDelay := BitVec.ofNat 16 r.tx
          head := 0, tail := 0, ovf := false, armed := true, row := some r }
      | none => { s with
          rxCenter := 0, rxIntra := 0, rxStop := 0, txDelay := 0
          head := 0, tail := 0, ovf := false, armed := false, row := none } := by
  unfold State.beginSession State.installTiming
  cases lookupRow s.cfg.calTable baud <;> rfl

/-- What the foreground's actions keep: the inputs and the time base, the handler's context and the buffer's slots;
`tail` moves only to 0 and `ovf` is never set. -/
theorem runFgAct_keeps {a : FgAct} {s t : State} (h : runFgAct a s = .ok t) :
    t.unacted = s.unacted ∧ t.handlerContext = s.handlerContext ∧ t.fgItems = s.fgItems ∧ t.resp = s.resp ∧
      (t.tail = s.tail ∨ t.tail = 0) ∧ (t.ovf = true → s.ovf = true) := by
  cases a with
  | install baud =>
    cases h
    rw [beginSession_eq]
    cases hr : lookupRow s.enterCritical.cfg.calTable baud <;>
      exact ⟨rfl, rfl, rfl, rfl, .inr rfl, fun h => nomatch h⟩
  | respondPop => rcases respondPop_cases h with ⟨-, rfl⟩ | ⟨-, -, rfl⟩ <;> exact ⟨rfl, rfl, rfl, rfl, .inl rfl, id⟩
  | respondPeek => rcases respondPeek_cases h with ⟨-, rfl⟩ | ⟨-, -, rfl⟩ <;> exact ⟨rfl, rfl, rfl, rfl, .inl rfl, id⟩
  | resetIndices => cases h; exact ⟨rfl, rfl, rfl, rfl, .inr rfl, id⟩
  | clearOverflow => cases h; exact ⟨rfl, rfl, rfl, rfl, .inl rfl, fun h => nomatch h⟩
  | enableInterrupts => cases h; exact ⟨rfl, rfl, rfl, rfl, .inl rfl, id⟩
  | disableInterrupts => cases h; exact ⟨rfl, rfl, rfl, rfl, .inl rfl, id⟩
  | disarm => cases h; exact ⟨rfl, rfl, rfl, rfl, .inl rfl, id⟩
  | respondCount => cases h; exact ⟨rfl, rfl, rfl, rfl, .inl rfl, id⟩
  | readOverflow => cases h; exact ⟨rfl, rfl, rfl, rfl, .inl rfl, id⟩
  | startBit => cases h; exact ⟨rfl, rfl, rfl, rfl, .inl rfl, id⟩
  | dataBit level => cases h; exact ⟨rfl, rfl, rfl, rfl, .inl rfl, id⟩
  | stopBit => cases h; exact ⟨rfl, rfl, rfl, rfl, .inl rfl, id⟩
  | respond value => cases h; exact ⟨rfl, rfl, rfl, rfl, .inl rfl, id⟩

/-- Ending a command writes `resp` and the response it came from, nothing else (R33). -/
theorem complete_eq (s : State) :
    s.complete = { s with resp := s.complete.resp, response := s.complete.response } := by
  unfold State.complete
  split
  · split <;> rfl
  · rfl

end Sys2Proof.Machine
end

