-- ==== Sys2Proof/Laws/Alone.lean ====
section
/-! SUPPORT. A command alone: what its list does by the cycle, item by item. `fgFrom code s n` is the outcome `n` cycles
after the cycle in which the foreground reaches `code` in state `s`. -/

namespace Sys2Proof.Machine

/-- The foreground reaches `code` in `s`: the rest of this cycle, and `n` further cycles alone. -/
def fgFrom (code : FgCode) (s : State) (n : Nat) : Host.Outcome State Fault Refusal :=
  match advance runFgAct fgHolds code s with
  | .ok (t, rest) => State.fgCycles n { t with fgItems := rest }.complete
  | .error f => .fault f

theorem complete_of_running {s : State} (h : s.fgItems.isDone = false) : s.complete = s := by
  simp [State.complete, h]

theorem complete_of_none {s : State} (h : s.response = none) : s.complete = s := by
  simp [State.complete, h]

theorem complete_of_response {s : State} {v : Response} (hd : s.fgItems = .done) (hr : s.response = some v) :
    s.complete = { s with resp := some v, response := none } := by
  simp [State.complete, hd, hr]

@[simp] theorem complete_fgItems (s : State) : s.complete.fgItems = s.fgItems := by
  rw [complete_eq]

theorem complete_complete (s : State) : s.complete.complete = s.complete := by
  cases hd : s.fgItems.isDone with
  | false => rw [complete_of_running hd, complete_of_running hd]
  | true =>
    cases hr : s.response with
    | none =>
      rw [complete_of_none hr, complete_of_none hr]
    | some v =>
      rw [complete_of_response ((Code.isDone_iff _).1 hd) hr]
      exact complete_of_none rfl

theorem resumeFg_of_done {s : State} (h : s.fgItems = .done) : s.resumeFg = .next s.complete := by
  unfold State.resumeFg
  rw [h, advance_done]
  show Host.Outcome.next { s with fgItems := .done }.complete = _
  rw [← h]

/-- With no command in progress and no response outstanding, cycles alone change nothing. -/
theorem fgCycles_of_complete {s : State} (h : s.fgItems = .done) (n : Nat) :
    State.fgCycles n s.complete = .next s.complete := by
  induction n with
  | zero => rfl
  | succ n ih =>
    rw [State.fgCycles, resumeFg_of_done (by simpa using h), complete_complete]
    exact ih

theorem resumeFg_fgFrom (s : State) (n : Nat) : State.fgCycles (n + 1) s = fgFrom s.fgItems s n := by
  rw [State.fgCycles, State.resumeFg, fgFrom]
  cases advance runFgAct fgHolds s.fgItems s <;> rfl

theorem resumeFg_eq_fgFrom (s : State) : s.resumeFg = fgFrom s.fgItems s 0 := by
  rw [State.resumeFg, fgFrom]
  cases advance runFgAct fgHolds s.fgItems s <;> rfl

theorem fgFrom_done (s : State) (n : Nat) : fgFrom .done s n = .next { s with fgItems := .done }.complete := by
  rw [fgFrom, advance_done]
  exact fgCycles_of_complete rfl n

theorem fgFrom_act {a : FgAct} {s t : State} (rest : FgCode) (n : Nat) (h : runFgAct a s = .ok t) :
    fgFrom (.act a rest) s n = fgFrom rest t n := by
  rw [fgFrom, advance_act rest h, fgFrom]

theorem fgFrom_act_error {a : FgAct} {s : State} {f : Fault} (rest : FgCode) (n : Nat) (h : runFgAct a s = .error f) :
    fgFrom (.act a rest) s n = .fault f := by
  rw [fgFrom, advance_act_error rest h]

theorem fgFrom_test (c : FgTest) (yes no : FgCode) (s : State) (n : Nat) :
    fgFrom (.test c yes no) s n = if fgHolds c s then fgFrom yes s n else fgFrom no s n := by
  rw [fgFrom, advance_test]
  cases fgHolds c s <;> rfl

theorem fgFrom_raise (f : Fault) (s : State) (n : Nat) : fgFrom (.raise f) s n = .fault f := rfl

/-- The list in the state is not read while another is advanced. -/
theorem runFgAct_fgItems (a : FgAct) (s : State) (code : FgCode) :
    runFgAct a { s with fgItems := code } =
      match runFgAct a s with
      | .ok t => .ok { t with fgItems := code }
      | .error f => .error f := by
  cases a with
  | install baud =>
    simp only [runFgAct, beginSession_eq, State.enterCritical, State.leaveCritical]
    cases lookupRow s.cfg.calTable baud <;> rfl
  | respondPop =>
    simp only [runFgAct, State.respondPop, State.pop, State.isEmpty, State.readSlot]
    by_cases h1 : s.head = s.tail
    · simp [h1, State.respond]
    · by_cases h2 : s.head.toNat < s.cfg.c <;> simp [h1, h2, State.respond]
  | respondPeek =>
    simp only [runFgAct, State.respondPeek, State.peekFront, State.isEmpty, State.readSlot]
    by_cases h1 : s.head = s.tail
    · simp [h1, State.respond]
    · by_cases h2 : s.head.toNat < s.cfg.c <;> simp [h1, h2, State.respond]
  | resetIndices => rfl
  | clearOverflow => rfl
  | enableInterrupts => rfl
  | disableInterrupts => rfl
  | disarm => rfl
  | respondCount => rfl
  | readOverflow => rfl
  | startBit => rfl
  | dataBit level => rfl
  | stopBit => rfl
  | respond value => rfl

theorem fgHolds_fgItems (c : FgTest) (s : State) (code : FgCode) :
    fgHolds c { s with fgItems := code } = fgHolds c s := by
  cases c <;> rfl

theorem advance_fgItems (code : FgCode) (s : State) (k : FgCode) :
    advance runFgAct fgHolds code { s with fgItems := k } =
      match advance runFgAct fgHolds code s with
      | .ok (t, rest) => .ok ({ t with fgItems := k }, rest)
      | .error f => .error f := by
  induction code generalizing s with
  | done => rfl
  | wait n rest ih => cases n with
    | zero => exact ih s
    | succ n => rfl
  | delay d rest ih =>
    rw [advance_delay, advance_delay]
    have hd : State.delayCycles { s with fgItems := k } d = s.delayCycles d := by cases d <;> rfl
    rw [hd]
    cases s.delayCycles d with
    | zero => exact ih s
    | succ n => rfl
  | act a rest ih =>
    have ha := runFgAct_fgItems a s k
    cases hr : runFgAct a s with
    | error f => rw [hr] at ha; rw [advance_act_error rest ha, advance_act_error rest hr]
    | ok t => rw [hr] at ha; rw [advance_act rest ha, advance_act rest hr]; exact ih t
  | test c yes no ihy ihn =>
    rw [advance_test, advance_test, fgHolds_fgItems]
    split
    · exact ihy s
    · exact ihn s
  | raise f => rfl

theorem fgFrom_fgItems (code : FgCode) (s : State) (k : FgCode) (n : Nat) :
    fgFrom code { s with fgItems := k } n = fgFrom code s n := by
  rw [fgFrom, fgFrom, advance_fgItems]
  cases advance runFgAct fgHolds code s <;> rfl

/-- `wait(w)` holds the list for `w` cycles, and then the rest is reached (R12). -/
theorem fgFrom_wait (w : Nat) (rest : FgCode) (s : State) (n : Nat) :
    fgFrom (.wait w rest) s n =
      if n < w then .next { s with fgItems := Code.waitThen (w - 1 - n) rest }.complete else fgFrom rest s (n - w) := by
  induction n generalizing w with
  | zero =>
    cases w with
    | zero => rfl
    | succ w => rfl
  | succ n ih =>
    cases w with
    | zero => rfl
    | succ w =>
      have hstep : fgFrom (.wait (w + 1) rest) s (n + 1) =
          State.fgCycles (n + 1) { s with fgItems := Code.waitThen w rest }.complete := rfl
      rw [hstep]
      cases w with
      | zero =>
        simp only [Code.waitThen_zero, Nat.add_sub_cancel]
        rw [if_neg (by omega)]
        cases hd : rest.isDone with
        | true =>
          have hrest : rest = .done := (Code.isDone_iff _).1 hd
          subst hrest
          rw [fgFrom_done, fgCycles_of_complete rfl]
        | false =>
          rw [complete_of_running (by exact hd), resumeFg_fgFrom]
          exact fgFrom_fgItems rest s rest n
      | succ w =>
        rw [complete_of_running (by rfl), resumeFg_fgFrom]
        show fgFrom (.wait (w + 1) rest) _ n = _
        rw [fgFrom_fgItems, ih]
        have hw : w + 1 - 1 - n = w + 1 + 1 - 1 - (n + 1) := by omega
        have hn : n - (w + 1) = n + 1 - (w + 1 + 1) := by omega
        rw [hw, hn]
        by_cases hlt : n < w + 1
        · rw [if_pos hlt, if_pos (by omega)]
        · rw [if_neg hlt, if_neg (by omega)]

theorem fgFrom_delay (d : TickSource) (rest : FgCode) (s : State) (n : Nat) :
    fgFrom (.delay d rest) s n = fgFrom (.wait (s.delayCycles d) rest) s n := by
  rw [fgFrom, advance_delay, fgFrom]

/-- Every action of the list is one `p` holds of. -/
def Code.allActs {α κ : Type} (p : α → Bool) : Code α κ → Bool
  | .done => true
  | .wait _ rest => Code.allActs p rest
  | .delay _ rest => Code.allActs p rest
  | .act a rest => p a && Code.allActs p rest
  | .test _ yes no => Code.allActs p yes && Code.allActs p no
  | .raise _ => true

/-- What the actions of a command's list keep, and the list and the response do not matter to, its cycles alone keep. -/
theorem fgCycles_keeps {p : FgAct → Bool} {P : State → Prop}
    (hact : ∀ a s t, p a = true → runFgAct a s = .ok t → P s → P t)
    (hitems : ∀ s code, P s → P { s with fgItems := code })
    (hcomplete : ∀ s, P s → P s.complete) (n : Nat) {s t : State} (hcode : Code.allActs p s.fgItems = true) (hs : P s)
    (h : State.fgCycles n s = .next t) : P t := by
  induction n generalizing s with
  | zero => cases h; exact hs
  | succ n ih =>
    rw [State.fgCycles, State.resumeFg] at h
    cases ha : advance runFgAct fgHolds s.fgItems s with
    | error f => rw [ha] at h; cases h
    | ok r =>
      obtain ⟨u, rest⟩ := r
      rw [ha] at h
      have hR : HandsOn runFgAct fgHolds (fun s code => P s ∧ Code.allActs p code = true) :=
        ⟨fun _ _ _ h => ⟨h, fun _ => h⟩, fun _ _ _ h => ⟨h, fun _ => h⟩,
          fun s t a rest h hr => by
            simp only [Code.allActs, Bool.and_eq_true] at h
            exact ⟨hact a s t h.2.1 hr h.1, h.2.2⟩,
          fun s c y n h _ => by simp only [Code.allActs, Bool.and_eq_true] at h; exact ⟨h.1, h.2.1⟩,
          fun s c y n h _ => by simp only [Code.allActs, Bool.and_eq_true] at h; exact ⟨h.1, h.2.2⟩⟩
      obtain ⟨hu, hrest⟩ := hR.advance ⟨hs, hcode⟩ ha
      refine ih ?_ (hcomplete _ (hitems u rest hu)) h
      rw [complete_fgItems]
      exact hrest

/-- A command's list. -/
def itemsOf (p : Params) : Instr → FgCode
  | .beginBaud baud => itemsBegin p baud
  | .endSession => itemsEnd p
  | .flush => itemsFlush p
  | .available => itemsAvailable p
  | .read => itemsRead p
  | .peek => itemsPeek p
  | .write byte => itemsWrite p byte
  | .overflowed => itemsOverflowed p
  | .idle n => itemsIdle n
  | .sei => itemsSei
  | .cli => itemsCli

/-- Every command's fetch cycle starts its list (R33). -/
theorem exec_eq_startCommand (i : Instr) (s : State) : exec i s = s.startCommand (itemsOf s.cfg i) := by
  cases i <;> rfl

/-- A command alone is `n + 1` cycles of the foreground from its list. -/
theorem runCommand_eq_fgCycles (i : Instr) (n : Nat) (s : State) :
    s.runCommand i n = State.fgCycles (n + 1) { s with fgItems := itemsOf s.cfg i, response := none } := by
  rw [State.runCommand, exec_eq_startCommand, State.startCommand, State.fgCycles]
  all_goals cases State.resumeFg { s with fgItems := itemsOf s.cfg i, response := none } <;> rfl

/-- A command alone runs its list from its fetch cycle. -/
theorem runCommand_eq_fgFrom (i : Instr) (n : Nat) (s : State) :
    s.runCommand i n = fgFrom (itemsOf s.cfg i) { s with response := none } n := by
  rw [runCommand_eq_fgCycles, resumeFg_fgFrom]
  exact fgFrom_fgItems _ { s with response := none } (itemsOf s.cfg i) n

/-- A command alone, from its fetch cycle, keeps what the actions of its list keep. -/
theorem runCommand_keeps {p : FgAct → Bool} {P : State → Prop} {i : Instr} {n : Nat} {s t : State}
    (hact : ∀ a s t, p a = true → runFgAct a s = .ok t → P s → P t)
    (hitems : ∀ s code, P s → P { s with fgItems := code })
    (hcomplete : ∀ s, P s → P s.complete) (hcode : Code.allActs p (itemsOf s.cfg i) = true)
    (hs : P { s with response := none }) (h : s.runCommand i n = .next t) : P t := by
  rw [runCommand_eq_fgCycles] at h
  exact fgCycles_keeps hact hitems hcomplete (n + 1) (by exact hcode) (hitems _ (itemsOf s.cfg i) hs) h

/-- `exec` answers a next state when the command alone does after any number of cycles. -/
theorem exec_next_of_runCommand {i : Instr} {n : Nat} {s t : State} (h : s.runCommand i n = .next t) :
    ∃ u, exec i s = .next u ∧ State.fgCycles n u = .next t := by
  unfold State.runCommand at h
  cases he : exec i s with
  | next u => rw [he] at h; exact ⟨u, rfl, h⟩
  | fault f => rw [he] at h; cases h
  | refused r => rw [he] at h; cases h

end Sys2Proof.Machine
end

