-- ==== Sys2Proof/Laws/Memory.lean ====
section
/-! SUPPORT. The slot memory: reading a canonical memory below its first slot, and that a write keeps the bound of the
listed slots. -/

namespace Sys2Proof.Machine

@[simp] theorem Memory.read_nil (a : Nat) : Memory.read [] a = Memory.unlisted := rfl

@[simp] theorem Memory.read_cons (b : Nat) (v : Byte) (m : Memory) (a : Nat) :
    Memory.read ((b, v) :: m) a = if a = b then v else Memory.read m a := rfl

@[simp] theorem Memory.wf_cons (a : Nat) (v : Byte) (m : Memory) :
    Memory.wf ((a, v) :: m) = true ↔ v ≠ Memory.unlisted ∧ Memory.above a m = true ∧ Memory.wf m = true := by
  simp [Memory.wf, and_assoc]

@[simp] theorem Memory.above_cons (a b : Nat) (v : Byte) (m : Memory) :
    Memory.above a ((b, v) :: m) = true ↔ a < b := by
  simp [Memory.above]

@[simp] theorem Memory.within_cons (c a : Nat) (v : Byte) (m : Memory) :
    Memory.within c ((a, v) :: m) = true ↔ a < c ∧ Memory.within c m = true := by
  simp [Memory.within]

/-- A slot at or below the bound of a canonical memory's slots is not listed. -/
theorem Memory.read_of_above {m : Memory} {a b : Nat} (hwf : m.wf = true) (h : m.above a = true) (hb : b ≤ a) :
    m.read b = Memory.unlisted := by
  induction m generalizing a with
  | nil => rfl
  | cons entry rest ih =>
    obtain ⟨c, v⟩ := entry
    obtain ⟨-, habove, hrest⟩ := (Memory.wf_cons c v rest).1 hwf
    have hc : a < c := (Memory.above_cons a c v rest).1 h
    rw [Memory.read_cons, if_neg (by omega)]
    exact ih hrest habove (by omega)

/-- A write at a slot above the bound keeps it. -/
theorem Memory.above_write {m : Memory} {a b : Nat} {v : Byte} (hwf : m.wf = true) (h : m.above a = true)
    (hab : a < b) : (m.write b v).above a = true := by
  cases m with
  | nil => simp only [Memory.write]; split <;> simp [Memory.above, hab]
  | cons entry rest =>
    obtain ⟨c, w⟩ := entry
    obtain ⟨-, habove, -⟩ := (Memory.wf_cons c w rest).1 hwf
    have hc : a < c := (Memory.above_cons a c w rest).1 h
    simp only [Memory.write]
    split
    · split <;> simp [hc, hab]
    · split
      · split
        · cases rest with
          | nil => rfl
          | cons e r => simp only [Memory.above, decide_eq_true_eq] at habove ⊢; omega
        · simp [hab]
      · simp [hc]

/-- A write inside `0..c-1` lists no slot outside it. -/
theorem Memory.within_write {m : Memory} {c b : Nat} {v : Byte} (h : m.within c = true) (hb : b < c) :
    (m.write b v).within c = true := by
  induction m with
  | nil => simp only [Memory.write]; split <;> simp [Memory.within, hb]
  | cons entry rest ih =>
    obtain ⟨d, w⟩ := entry
    obtain ⟨hd, hrest⟩ := (Memory.within_cons c d w rest).1 h
    simp only [Memory.write]
    split
    · split <;> simp [hd, hb, hrest]
    · split
      · split <;> simp [hb, hrest]
      · simp [hd, ih hrest]

/-- Every memory operation keeps the canonical form. -/
theorem Memory.wf_write {m : Memory} (b : Nat) (v : Byte) (hwf : m.wf = true) : (m.write b v).wf = true := by
  induction m with
  | nil => simp only [Memory.write]; split <;> simp_all [Memory.wf, Memory.above]
  | cons entry rest ih =>
    obtain ⟨c, w⟩ := entry
    obtain ⟨hw, habove, hrest⟩ := (Memory.wf_cons c w rest).1 hwf
    simp only [Memory.write]
    split
    · split
      · exact hwf
      · next hlt hv => exact (Memory.wf_cons _ _ _).2 ⟨hv, (Memory.above_cons _ _ _ _).2 hlt, hwf⟩
    · split
      · split
        · exact hrest
        · next heq hv => subst heq; exact (Memory.wf_cons _ _ _).2 ⟨hv, habove, hrest⟩
      · exact (Memory.wf_cons _ _ _).2 ⟨hw, Memory.above_write hrest habove (by omega), ih hrest⟩

@[simp] theorem reset_memory_wf : State.reset.buf.wf = true := rfl

end Sys2Proof.Machine
end

