-- ==== Sys2Proof/Laws/Buffer.lean ====
section
/-! SUPPORT. The ring buffer's indices as numbers (43_ring_buffer.md R99 to R101): the capacity's bounds, the next index,
the occupancy, and when the buffer is full. -/

namespace Sys2Proof.Machine

/-- A well-formed configuration has 2 to 256 slots (00_scope.md R7). -/
theorem capacity_of_wf {p : Params} (h : p.wf = true) : 2 ≤ p.c ∧ p.c ≤ 256 := by
  simp [Params.wf, Config.capacities] at h
  omega

theorem byte_eq_iff {a b : Byte} : a = b ↔ a.toNat = b.toNat :=
  ⟨fun h => by rw [h], BitVec.eq_of_toNat_eq⟩

/-- One wrap at most: `a mod c` for `a < 2 * c`. -/
theorem mod_of_lt_two_mul {a c : Nat} (h : a < 2 * c) : a % c = if a < c then a else a - c := by
  split
  · exact Nat.mod_eq_of_lt ‹_›
  · rw [Nat.mod_eq_sub_mod (by omega)]
    exact Nat.mod_eq_of_lt (by omega)

theorem nextIndex_toNat {c : Nat} (h0 : 0 < c) (h : c ≤ 256) (i : Byte) :
    (nextIndex c i).toNat = (i.toNat + 1) % c := by
  have := Nat.mod_lt (i.toNat + 1) h0
  unfold nextIndex
  rw [BitVec.toNat_ofNat]
  exact Nat.mod_eq_of_lt (by omega)

theorem nextIndex_lt {c : Nat} (h0 : 0 < c) (h : c ≤ 256) (i : Byte) : (nextIndex c i).toNat < c := by
  rw [nextIndex_toNat h0 h]
  exact Nat.mod_lt _ h0

/-- The occupancy without the integer `mod` (R99). -/
theorem count_eq {s : State} (h : s.IndicesInRange) :
    s.count =
      if s.head.toNat ≤ s.tail.toNat then s.tail.toNat - s.head.toNat else s.tail.toNat + s.cfg.c - s.head.toNat := by
  obtain ⟨h1, h2⟩ := h
  unfold State.count occupancy
  split
  · rw [Int.emod_eq_of_lt (by omega) (by omega)]
    omega
  · have hm : ((s.tail.toNat : Int) - s.head.toNat) % s.cfg.c = (s.tail.toNat : Int) - s.head.toNat + s.cfg.c := by
      rw [← Int.add_emod_right, Int.emod_eq_of_lt (by omega) (by omega)]
    rw [hm]
    omega

/-- The buffer is full exactly when it holds `C - 1` bytes (20_memory.md R43). -/
theorem isFull_iff_count {s : State} (hc : 2 ≤ s.cfg.c) (hc2 : s.cfg.c ≤ 256) (h : s.IndicesInRange) :
    s.isFull = true ↔ s.count = s.cfg.c - 1 := by
  have hn := nextIndex_toNat (show 0 < s.cfg.c by omega) hc2 s.tail
  have hm := mod_of_lt_two_mul (show s.tail.toNat + 1 < 2 * s.cfg.c by have := h.2; omega)
  rw [count_eq h]
  obtain ⟨h1, h2⟩ := h
  unfold State.isFull
  rw [decide_eq_true_eq, byte_eq_iff, hn, hm]
  constructor
  · intro h; split at h <;> split <;> omega
  · intro h; split at h <;> split <;> omega

/-- The slot after the last occupied one is the slot at `tail`. -/
theorem slotAt_count {s : State} (h : s.IndicesInRange) : s.slotAt s.count = s.tail.toNat := by
  unfold State.slotAt
  rw [count_eq h]
  obtain ⟨h1, h2⟩ := h
  split
  · rw [Nat.mod_eq_of_lt (by omega)]
    omega
  · rw [mod_of_lt_two_mul (by omega), if_neg (by omega)]
    omega

end Sys2Proof.Machine
end

