-- ==== Sys2Proof/Laws/Decode.lean ====
section
/-! SUPPORT. The command word's fields and the encoder's words as numbers (30_encoding.md R63, R69), and the bytes of a
word put together again (20_memory.md R49). -/

namespace Sys2Proof

@[simp] theorem Word.op_toNat (w : Word) : (Word.op w).toNat = w.toNat / 2 ^ 28 := by
  have hlt := w.isLt
  simp only [Word.op, BitVec.extractLsb'_toNat, Nat.shiftRight_eq_div_pow]
  omega

@[simp] theorem Word.operand_toNat (w : Word) : (Word.operand w).toNat = w.toNat % 2 ^ 28 := by
  simp [Word.operand, BitVec.extractLsb'_toNat]

@[simp] theorem Word.sub_toNat (w : Word) : (Word.sub w).toNat = w.toNat / 2 ^ 24 % 2 ^ 4 := by
  simp [Word.sub, BitVec.extractLsb'_toNat, Nat.shiftRight_eq_div_pow]

@[simp] theorem Word.count_toNat (w : Word) : (Word.count w).toNat = w.toNat % 2 ^ 24 := by
  simp [Word.count, BitVec.extractLsb'_toNat]

@[simp] theorem Word.writeZero_toNat (w : Word) : (Word.writeZero w).toNat = w.toNat / 2 ^ 8 % 2 ^ 20 := by
  simp [Word.writeZero, BitVec.extractLsb'_toNat, Nat.shiftRight_eq_div_pow]

@[simp] theorem Word.byte_toNat (w : Word) : (Word.byte w).toNat = w.toNat % 2 ^ 8 := by
  simp [Word.byte, BitVec.extractLsb'_toNat]

/-- A field is zero exactly when its number is. -/
theorem field_eq_zero {n : Nat} (b : BitVec n) : b = 0 ↔ b.toNat = 0 := by
  constructor
  · rintro rfl; rfl
  · intro h; exact BitVec.eq_of_toNat_eq (by simpa using h)

/-- Two fields side by side, as a number. -/
theorem append_toNat_eq {m n : Nat} (a : BitVec m) (b : BitVec n) : (a ++ b).toNat = a.toNat * 2 ^ n + b.toNat := by
  rw [BitVec.toNat_append, ← Nat.shiftLeft_add_eq_or_of_lt b.isLt, Nat.shiftLeft_eq]

/-- BEGIN's word (R69). -/
theorem encode_beginBaud_toNat {baud : Nat} (h : baud < 2 ^ 28) :
    (encode (.beginBaud baud)).toNat = 1 * 2 ^ 28 + baud := by
  refine (append_toNat_eq (0x1 : BitVec 4) (BitVec.ofNat 28 baud)).trans ?_
  rw [BitVec.toNat_ofNat, Nat.mod_eq_of_lt h]
  rfl

/-- WRITE's word (R69). -/
theorem encode_write_toNat (byte : Byte) : (encode (.write byte)).toNat = 7 * 2 ^ 28 + byte.toNat :=
  append_toNat_eq (0x700000 : BitVec 24) byte

/-- IDLE's word (R68). -/
theorem encode_idle_toNat {n : Nat} (h : n < 2 ^ 24) : (encode (.idle n)).toNat = 15 * 2 ^ 28 + n := by
  refine (append_toNat_eq (0xF0 : BitVec 8) (BitVec.ofNat 24 n)).trans ?_
  rw [BitVec.toNat_ofNat, Nat.mod_eq_of_lt h]
  rfl

theorem wordOfBytes_toNat (b0 b1 b2 b3 : Byte) :
    (wordOfBytes b0 b1 b2 b3).toNat =
      b0.toNat + 2 ^ 8 * b1.toNat + 2 ^ 16 * b2.toNat + 2 ^ 24 * b3.toNat := by
  have h1 := append_toNat_eq (b3 ++ b2 ++ b1) b0
  have h2 := append_toNat_eq (b3 ++ b2) b1
  have h3 := append_toNat_eq b3 b2
  rw [h3] at h2
  rw [h2] at h1
  refine h1.trans ?_
  omega

/-- A word's bytes put together are the word (R49). -/
theorem wordOfBytes_bytesOfWord (w : Word) :
    wordOfBytes (w.extractLsb' 0 8) (w.extractLsb' 8 8) (w.extractLsb' 16 8) (w.extractLsb' 24 8) = w := by
  have hlt := w.isLt
  refine BitVec.eq_of_toNat_eq ?_
  rw [wordOfBytes_toNat]
  simp only [BitVec.extractLsb'_toNat, Nat.shiftRight_eq_div_pow]
  omega

/-- A response word's bytes put together are the response word (R49). -/
theorem responseOfBytes_bytesOfResponse (r : Response) :
    responseOfBytes (r.extractLsb' 0 8) (r.extractLsb' 8 8) = r := by
  have hlt := r.isLt
  refine BitVec.eq_of_toNat_eq ((append_toNat_eq _ _).trans ?_)
  simp only [BitVec.extractLsb'_toNat, Nat.shiftRight_eq_div_pow]
  omega

/-- The decoder on a word's bytes is the decoder on the word. -/
theorem decodeBytes_bytesOfWord (w : Word) (rest : List Byte) :
    decodeBytes (bytesOfWord w ++ rest) =
      match decode w with
      | .instr i => .instr i rest
      | .reserved w => .reserved w := by
  simp only [bytesOfWord, List.cons_append, List.nil_append, decodeBytes, wordOfBytes_bytesOfWord]
  all_goals cases decode w <;> rfl

/-- A word the host's decoding test gives an instruction for is one the decoder decodes to it. -/
theorem decode_of_decodeTableWord {w : Nat} {i : Instr} (h : decodeTableWord 32 w = some i) :
    decode (tableWord 32 w) = .instr i := by
  unfold decodeTableWord at h
  rw [← List.append_nil (bytesOfWord _), decodeBytes_bytesOfWord] at h
  cases hd : decode (tableWord 32 w) with
  | instr j => rw [hd] at h; simpa using h
  | reserved v => rw [hd] at h; simp at h

end Sys2Proof
end

