-- ==== Sys2Proof/Laws/Step.lean ====
section
/-! SUPPORT. What one step can do (10_state.md R33), said once: its inversion, and what every step keeps. -/

namespace Sys2Proof.Machine

theorem step_of_wf {s : State} (h : s.cfg.wf = true) : step s = cycle s := by
  simp [step, h]

theorem wf_of_step {s t : State} (h : step s = .next t) : s.cfg.wf = true := by
  unfold step at h
  split at h
  · assumption
  · cases h

theorem thenTick_eq_next {o : Host.Outcome State Fault Refusal} {t : State} (h : thenTick o = .next t) :
    ∃ u, o = .next u ∧ t = u.tick := by
  cases o with
  | next u => cases h; exact ⟨u, rfl, rfl⟩
  | fault f => cases h
  | refused r => cases h

theorem thenTick_eq_fault {o : Host.Outcome State Fault Refusal} {f : Fault} (h : thenTick o = .fault f) :
    o = .fault f := by
  cases o with
  | next u => cases h
  | fault f => exact h
  | refused r => cases h

theorem advanceHandler_eq_next {s t : State} (h : s.advanceHandler = .next t) :
    ∃ u rest, advance runHandlerAct handlerHolds s.hItems s = .ok (u, rest) ∧ t = { u with hItems := rest } := by
  unfold State.advanceHandler at h
  split at h
  · next u rest he => cases h; exact ⟨u, rest, he, rfl⟩
  · cases h

theorem advanceHandler_eq_fault {s : State} {f : Fault} (h : s.advanceHandler = .fault f) :
    advance runHandlerAct handlerHolds s.hItems s = .error f := by
  unfold State.advanceHandler at h
  split at h
  · cases h
  · next he => cases h; exact he

theorem resumeFg_eq_next {s t : State} (h : s.resumeFg = .next t) :
    ∃ u rest, advance runFgAct fgHolds s.fgItems s = .ok (u, rest) ∧ t = { u with fgItems := rest }.complete := by
  unfold State.resumeFg at h
  split at h
  · next u rest he => cases h; exact ⟨u, rest, he, rfl⟩
  · cases h

theorem resumeFg_eq_fault {s : State} {f : Fault} (h : s.resumeFg = .fault f) :
    advance runFgAct fgHolds s.fgItems s = .error f := by
  unfold State.resumeFg at h
  split at h
  · cases h
  · next he => cases h; exact he

/-- The state in which the handler's cycle starts: dispatched in it, or active before it (R33). -/
def State.handlerStart (s : State) : State :=
  if s.hActive then s.edgeDetect else s.edgeDetect.dispatch (rxItems s.cfg)

/-- The state in which the foreground's cycle starts: with the list of the command fetched in it, or the list in
progress (R33). `none` with no command to run. -/
def State.fgStart (s : State) : Option State :=
  if s.fgItems.isDone then
    match s.stream[s.cp]? with
    | some w =>
      match decode w with
      | .instr i => some { s.edgeDetect with cp := s.cp + 1, fgItems := itemsOf s.cfg i, response := none }
      | .reserved _ => none
    | none => none
  else some s.edgeDetect

/-- A step belongs to the handler, to the foreground in a command, or to nobody (R33). -/
theorem step_cases {s t : State} (h : step s = .next t) :
    (s.HandlerTurn ∧ ∃ u, s.handlerStart.advanceHandler = .next u ∧ t = u.tick) ∨
      (s.FgTurn ∧ ∃ r u, s.fgStart = some r ∧ r.resumeFg = .next u ∧ t = u.tick) ∨
        (¬ s.HandlerTurn ∧ (s.edgeDetect.foreignCycle = true ∨ s.fgItems = .done ∧ s.stream[s.cp]? = none) ∧
          t = s.edgeDetect.tick) := by
  rw [step_of_wf (wf_of_step h), cycle] at h
  obtain ⟨u, hu, rfl⟩ := thenTick_eq_next h
  unfold State.runContexts at hu
  cases ha : s.hActive with
  | true =>
    rw [if_pos (by exact ha)] at hu
    exact .inl ⟨.inl ha, u, by unfold State.handlerStart; rw [if_pos ha]; exact hu, rfl⟩
  | false =>
    rw [if_neg (by rw [show s.edgeDetect.hActive = false from ha]; decide)] at hu
    cases hd : s.edgeDetect.dispatchable with
    | true =>
      rw [hd, if_pos rfl] at hu
      exact .inl ⟨.inr hd, u, by unfold State.handlerStart; rw [if_neg (by rw [ha]; decide)]; exact hu, rfl⟩
    | false =>
      rw [hd, if_neg (by decide)] at hu
      have hnot : ¬ s.HandlerTurn := by rintro (h | h) <;> simp_all
      cases hf : s.edgeDetect.foreignCycle with
      | true =>
        rw [hf, if_pos rfl] at hu
        cases hu
        exact .inr (.inr ⟨hnot, .inl rfl, rfl⟩)
      | false =>
        rw [hf, if_neg (by decide)] at hu
        unfold State.advanceFg at hu
        cases hi : s.fgItems.isDone with
        | false =>
          rw [if_neg (by rw [show s.edgeDetect.fgItems = s.fgItems from rfl, hi]; decide)] at hu
          exact .inr (.inl ⟨⟨ha, hd, hf⟩, s.edgeDetect, u, by unfold State.fgStart; rw [hi]; rfl, hu, rfl⟩)
        | true =>
          rw [if_pos (by exact hi)] at hu
          cases hw : s.stream[s.cp]? with
          | none =>
            rw [show s.edgeDetect.stream[s.edgeDetect.cp]? = none from hw] at hu
            cases hu
            exact .inr (.inr ⟨hnot, .inr ⟨(Code.isDone_iff _).1 hi, rfl⟩, rfl⟩)
          | some w =>
            rw [show s.edgeDetect.stream[s.edgeDetect.cp]? = some w from hw] at hu
            simp only [State.runWord] at hu
            cases hdec : decode w with
            | reserved v => rw [hdec] at hu; cases hu
            | instr i =>
              rw [hdec] at hu
              simp only [exec_eq_startCommand] at hu
              refine .inr (.inl ⟨⟨ha, hd, hf⟩, _, u, ?_, hu, rfl⟩)
              unfold State.fgStart
              rw [if_pos hi, hw]
              simp only [hdec]
              rfl

/-- A step that faults does so in the handler's cycle or in the foreground's. -/
theorem step_fault_cases {s : State} {f : Fault} (h : step s = .fault f) :
    s.cfg.wf = true ∧
      ((s.HandlerTurn ∧ s.handlerStart.advanceHandler = .fault f) ∨
        (s.FgTurn ∧ ∃ r, s.fgStart = some r ∧ r.resumeFg = .fault f)) := by
  have hw : s.cfg.wf = true := by
    unfold step at h
    split at h
    · assumption
    · cases h
  refine ⟨hw, ?_⟩
  rw [step_of_wf hw, cycle] at h
  have hu := thenTick_eq_fault h
  unfold State.runContexts at hu
  cases ha : s.hActive with
  | true =>
    rw [if_pos (by exact ha)] at hu
    exact .inl ⟨.inl ha, by unfold State.handlerStart; rw [if_pos ha]; exact hu⟩
  | false =>
    rw [if_neg (by rw [show s.edgeDetect.hActive = false from ha]; decide)] at hu
    cases hd : s.edgeDetect.dispatchable with
    | true =>
      rw [hd, if_pos rfl] at hu
      exact .inl ⟨.inr hd, by unfold State.handlerStart; rw [if_neg (by rw [ha]; decide)]; exact hu⟩
    | false =>
      rw [hd, if_neg (by decide)] at hu
      cases hf : s.edgeDetect.foreignCycle with
      | true => rw [hf, if_pos rfl] at hu; cases hu
      | false =>
        rw [hf, if_neg (by decide)] at hu
        unfold State.advanceFg at hu
        cases hi : s.fgItems.isDone with
        | false =>
          rw [if_neg (by rw [show s.edgeDetect.fgItems = s.fgItems from rfl, hi]; decide)] at hu
          exact .inr ⟨⟨ha, hd, hf⟩, s.edgeDetect, by unfold State.fgStart; rw [hi]; rfl, hu⟩
        | true =>
          rw [if_pos (by exact hi)] at hu
          cases hst : s.stream[s.cp]? with
          | none =>
            rw [show s.edgeDetect.stream[s.edgeDetect.cp]? = none from hst] at hu
            cases hu
          | some w =>
            rw [show s.edgeDetect.stream[s.edgeDetect.cp]? = some w from hst] at hu
            simp only [State.runWord] at hu
            cases hdec : decode w with
            | reserved v => rw [hdec] at hu; cases hu
            | instr i =>
              rw [hdec] at hu
              simp only [exec_eq_startCommand] at hu
              refine .inr ⟨⟨ha, hd, hf⟩, _, ?_, hu⟩
              unfold State.fgStart
              rw [if_pos hi, hst]
              simp only [hdec]
              rfl

/-- What the handler's cycle keeps: the inputs, the time base, the edge detector, the sequencer and the foreground's
context (R33, R129). -/
theorem advanceHandler_keeps {s t : State} (h : s.advanceHandler = .next t) :
    t.unacted = s.unacted ∧ t.foregroundContext = s.foregroundContext := by
  obtain ⟨u, rest, ha, rfl⟩ := advanceHandler_eq_next h
  have hk := advance_keeps (P := fun t => t.unacted = s.unacted ∧ t.foregroundContext = s.foregroundContext)
    (fun a s' t' hr hp => by
      obtain ⟨h1, h2, -⟩ := runHandlerAct_keeps hr
      exact ⟨h1.trans hp.1, h2.trans hp.2⟩) ha ⟨rfl, rfl⟩
  exact hk

/-- What the foreground's cycle keeps: the inputs, the time base, the edge detector, the sequencer's position, the
handler's context and the slots; it moves `tail` only to 0 and never sets `ovf` (R33). -/
theorem resumeFg_keeps {s t : State} (h : s.resumeFg = .next t) :
    t.unacted = s.unacted ∧ t.handlerContext = s.handlerContext ∧ (t.tail = s.tail ∨ t.tail = 0) ∧
      (t.ovf = true → s.ovf = true) := by
  obtain ⟨u, rest, ha, rfl⟩ := resumeFg_eq_next h
  have hk := advance_keeps
    (P := fun t => t.unacted = s.unacted ∧ t.handlerContext = s.handlerContext ∧ (t.tail = s.tail ∨ t.tail = 0) ∧
      (t.ovf = true → s.ovf = true))
    (fun a s' t' hr hp => by
      obtain ⟨h1, h2, -, -, h3, h4⟩ := runFgAct_keeps hr
      refine ⟨h1.trans hp.1, h2.trans hp.2.1, ?_, fun h => hp.2.2.2 (h4 h)⟩
      rcases h3 with h3 | h3
      · rw [h3]; exact hp.2.2.1
      · exact .inr h3) ha ⟨rfl, rfl, .inl rfl, id⟩
  rw [complete_eq]
  exact hk

/-- BEGIN's list is its `CALL_PRE` wait and then its install list. -/
theorem itemsOf_begin (p : Params) (baud : Nat) : itemsOf p (.beginBaud baud) = .wait p.callPre (installItems baud) := rfl

/-- Every command but a BEGIN on a supported baud installs nothing. -/
theorem itemsOf_installsNothing {p : Params} {i : Instr}
    (h : ∀ baud, i = .beginBaud baud → lookupRow p.calTable baud = none) :
    FgCode.installsNothing p.calTable (itemsOf p i) = true := by
  cases i with
  | beginBaud baud => simp [itemsOf_begin, installItems, FgCode.installsNothing, h baud rfl]
  | _ => rfl

end Sys2Proof.Machine
end

