-- ==== Sys2Proof/Laws/Handler.lean ====
section
/-! SUPPORT. A handler run: what its list does by the cycle, item by item (42_receive.md R87 to R97). `handlerFrom code s n`
is the machine `n` steps after the step in whose cycle the handler reaches `code` in state `s`. -/

namespace Sys2Proof.Machine

/-- A bit set reads back, and the other bits stay (42 R91). -/
theorem setBit_getLsbD (b : Byte) (i : Fin 8) (v : Bit) (j : Nat) (hj : j < 8) :
    (b.setBit i v).getLsbD j = if j = i.val then v else b.getLsbD j := by
  unfold Byte.setBit
  have hi := i.isLt
  cases v
  · simp only [Bool.false_eq_true, if_false]
    by_cases h : j = i.val
    · simp [h]
    · simp [h]; intro; omega
  · simp only [if_true]
    by_cases h : j = i.val
    · simp [h]
    · simp [h]; intro; omega

/-- `k` cycles in which the active handler waits: the cycle number moves on and the edge is detected in each. -/
def coast : Nat → State → State
  | 0, s => s
  | k + 1, s => coast k s.tick.edgeDetect

/-- What a handler's wait writes: the cycle number and the edge detector. -/
theorem coast_eq (k : Nat) (s : State) :
    coast k s = { s with
      now := s.now + k, pending := (coast k s).pending, rxPrev := if k = 0 then s.rxPrev else s.rxAt (s.now + k) } := by
  induction k generalizing s with
  | zero => rfl
  | succ k ih =>
    have h := ih s.tick.edgeDetect
    rw [coast, h]
    have hnow : s.tick.edgeDetect.now + k = s.now + (k + 1) := by
      show s.now + 1 + k = _
      omega
    cases k with
    | zero => rfl
    | succ k => simp only [hnow]; rfl

theorem coast_add (j k : Nat) (s : State) : coast k (coast j s) = coast (j + k) s := by
  induction j generalizing s with
  | zero => rw [Nat.zero_add]; rfl
  | succ j ih => rw [coast, ih, Nat.succ_add]; rfl

theorem coast_rxAt (s : State) (k t : Nat) : (coast k s).rxAt t = s.rxAt t := by
  rw [coast_eq]
  rfl

@[simp] theorem coast_now (k : Nat) (s : State) : (coast k s).now = s.now + k := by rw [coast_eq]

@[simp] theorem coast_rxNow (k : Nat) (s : State) : (coast k s).rxNow = s.rxAt (s.now + k) := by
  rw [State.rxNow, coast_rxAt, coast_now]

@[simp] theorem coast_cfg (k : Nat) (s : State) : (coast k s).cfg = s.cfg := by rw [coast_eq]
@[simp] theorem coast_hActive (k : Nat) (s : State) : (coast k s).hActive = s.hActive := by rw [coast_eq]
@[simp] theorem coast_hLvl (k : Nat) (s : State) : (coast k s).hLvl = s.hLvl := by rw [coast_eq]
@[simp] theorem coast_acc (k : Nat) (s : State) : (coast k s).acc = s.acc := by rw [coast_eq]
@[simp] theorem coast_gie (k : Nat) (s : State) : (coast k s).gie = s.gie := by rw [coast_eq]
@[simp] theorem coast_armed (k : Nat) (s : State) : (coast k s).armed = s.armed := by rw [coast_eq]

/-- The handler waiting after its dispatch (60 R123). -/
theorem coast_dispatch (items : HandlerCode) (k : Nat) (s : State) :
    coast k (s.edgeDetect.dispatch items) = { s with
      now := s.now + k, pending := (coast k (s.edgeDetect.dispatch items)).pending, rxPrev := s.rxAt (s.now + k)
      hSaved := s.gie, gie := false, hActive := true, hPhase := .startCandidate, hItems := items } := by
  rw [coast_eq]
  cases k <;> rfl

theorem coast_delayCycles (k : Nat) (s : State) (d : TickSource) : (coast k s).delayCycles d = s.delayCycles d := by
  rw [coast_eq]
  cases d <;> rfl

/-- Waits and the handler's own registers do not meet. -/
theorem coast_with (k : Nat) (s : State) (lvl : Bit) (phase : Phase) (acc : Byte) :
    coast k { s with hLvl := lvl, hPhase := phase, acc := acc } =
      { coast k s with hLvl := lvl, hPhase := phase, acc := acc } := by
  induction k generalizing s with
  | zero => rfl
  | succ k ih => exact ih s.tick.edgeDetect

/-- A wait latches a change of the line in any of its cycles while armed (R34, R96). -/
theorem coast_pending (k : Nat) (s : State) (harmed : s.armed = true) (hprev : s.rxPrev = s.rxAt s.now) :
    (coast k s).pending = true ↔
      s.pending = true ∨ ∃ c, s.now < c ∧ c ≤ s.now + k ∧ s.rxAt c ≠ s.rxAt (c - 1) := by
  induction k generalizing s with
  | zero =>
    constructor
    · exact .inl
    · rintro (h | ⟨c, h1, h2, -⟩)
      · exact h
      · omega
  | succ k ih =>
    rw [coast, ih s.tick.edgeDetect harmed rfl]
    have hp : s.tick.edgeDetect.pending = true ↔ s.pending = true ∨ s.rxAt (s.now + 1) ≠ s.rxAt s.now := by
      show (s.pending || (s.rxAt (s.now + 1) != s.rxPrev && (s.armed || s.cfg.pLatchDisarmed))) = true ↔ _
      simp [harmed, hprev]
    rw [hp]
    show (_ ∨ ∃ c, s.now + 1 < c ∧ c ≤ s.now + 1 + k ∧ s.rxAt c ≠ s.rxAt (c - 1)) ↔ _
    constructor
    · rintro ((h | h) | ⟨c, h1, h2, h3⟩)
      · exact .inl h
      · exact .inr ⟨s.now + 1, by omega, by omega, h⟩
      · exact .inr ⟨c, by omega, by omega, h3⟩
    · rintro (h | ⟨c, h1, h2, h3⟩)
      · exact .inl (.inl h)
      · by_cases hc : c = s.now + 1
        · subst hc; exact .inl (.inr h3)
        · exact .inr ⟨c, by omega, by omega, h3⟩

/-- The handler reaches `code` in `s`: the rest of this cycle, and `n` further steps. -/
def handlerFrom (code : HandlerCode) (s : State) (n : Nat) : Host.Outcome State Fault Refusal :=
  match advance runHandlerAct handlerHolds code s with
  | .ok (t, rest) => runSteps n (State.tick { t with hItems := rest })
  | .error f => .fault f

/-- A step of the active handler goes on with its list. -/
theorem runSteps_active {s : State} (hw : s.cfg.wf = true) (ha : s.hActive = true) (n : Nat) :
    runSteps (n + 1) s = handlerFrom s.hItems s.edgeDetect n := by
  rw [runSteps, step_of_wf hw, cycle, State.runContexts, if_pos (by exact ha), State.advanceHandler, handlerFrom]
  show (match thenTick (match advance runHandlerAct handlerHolds s.hItems s.edgeDetect with
    | .ok (t, rest) => .next { t with hItems := rest }
    | .error f => .fault f) with
    | .next t => runSteps n t
    | .fault f => .fault f
    | .refused r => .refused r) = _
  cases advance runHandlerAct handlerHolds s.hItems s.edgeDetect <;> rfl

/-- A step that dispatches the handler starts its list (60 R123). -/
theorem runSteps_dispatch {s : State} (hw : s.cfg.wf = true) (ha : s.hActive = false)
    (hd : s.edgeDetect.dispatchable = true) (n : Nat) :
    runSteps (n + 1) s = handlerFrom (rxItems s.cfg) (s.edgeDetect.dispatch (rxItems s.cfg)) n := by
  rw [runSteps, step_of_wf hw, cycle, State.runContexts,
    if_neg (by rw [show s.edgeDetect.hActive = false from ha]; decide), hd, if_pos rfl, State.advanceHandler, handlerFrom]
  show (match thenTick (match advance runHandlerAct handlerHolds (rxItems s.cfg)
      (s.edgeDetect.dispatch (rxItems s.cfg)) with
    | .ok (t, rest) => .next { t with hItems := rest }
    | .error f => .fault f) with
    | .next t => runSteps n t
    | .fault f => .fault f
    | .refused r => .refused r) = _
  cases advance runHandlerAct handlerHolds (rxItems s.cfg) (s.edgeDetect.dispatch (rxItems s.cfg)) <;> rfl

theorem handlerFrom_done (s : State) : handlerFrom .done s 0 = .next (State.tick { s with hItems := .done }) := rfl

theorem handlerFrom_act {a : HandlerAct} {s t : State} (rest : HandlerCode) (n : Nat) (h : runHandlerAct a s = .ok t) :
    handlerFrom (.act a rest) s n = handlerFrom rest t n := by
  rw [handlerFrom, advance_act rest h, handlerFrom]

theorem handlerFrom_test (c : HandlerTest) (yes no : HandlerCode) (s : State) (n : Nat) :
    handlerFrom (.test c yes no) s n = if handlerHolds c s then handlerFrom yes s n else handlerFrom no s n := by
  rw [handlerFrom, advance_test]
  cases handlerHolds c s <;> rfl

theorem handlerFrom_delay (d : TickSource) (rest : HandlerCode) (s : State) (n : Nat) :
    handlerFrom (.delay d rest) s n = handlerFrom (.wait (s.delayCycles d) rest) s n := by
  rw [handlerFrom, advance_delay, handlerFrom]

theorem runHandlerAct_hItems (a : HandlerAct) (s : State) (code : HandlerCode) :
    runHandlerAct a { s with hItems := code } =
      match runHandlerAct a s with
      | .ok t => .ok { t with hItems := code }
      | .error f => .error f := by
  cases a with
  | commit =>
    simp only [runHandlerAct, State.commit, State.push, State.isFull, State.writeSlot]
    by_cases h1 : nextIndex s.cfg.c s.tail = s.head
    · simp [h1]
    · by_cases h2 : s.tail.toNat < s.cfg.c <;> simp [h1, h2]
  | startCheck => rfl
  | sample i => rfl
  | leave => rfl

/-- The list in the state is not read while another is advanced. -/
theorem advance_hItems (code : HandlerCode) (s : State) (k : HandlerCode) :
    advance runHandlerAct handlerHolds code { s with hItems := k } =
      match advance runHandlerAct handlerHolds code s with
      | .ok (t, rest) => .ok ({ t with hItems := k }, rest)
      | .error f => .error f := by
  induction code generalizing s with
  | done => rfl
  | wait n rest ih => cases n with
    | zero => exact ih s
    | succ n => rfl
  | delay d rest ih =>
    rw [advance_delay, advance_delay]
    have hd : State.delayCycles { s with hItems := k } d = s.delayCycles d := by cases d <;> rfl
    rw [hd]
    cases s.delayCycles d with
    | zero => exact ih s
    | succ n => rfl
  | act a rest ih =>
    have ha := runHandlerAct_hItems a s k
    cases hr : runHandlerAct a s with
    | error f => rw [hr] at ha; rw [advance_act_error rest ha, advance_act_error rest hr]
    | ok t => rw [hr] at ha; rw [advance_act rest ha, advance_act rest hr]; exact ih t
  | test c yes no ihy ihn =>
    rw [advance_test, advance_test]
    have hh : handlerHolds c { s with hItems := k } = handlerHolds c s := by cases c; rfl
    rw [hh]
    split
    · exact ihy s
    · exact ihn s
  | raise f => rfl

theorem handlerFrom_hItems (code : HandlerCode) (s : State) (k : HandlerCode) (n : Nat) :
    handlerFrom code { s with hItems := k } n = handlerFrom code s n := by
  rw [handlerFrom, handlerFrom, advance_hItems]
  cases advance runHandlerAct handlerHolds code s <;> rfl

/-- `wait(w)` holds the active handler's list for `w` cycles, and then the rest is reached (R12). -/
theorem handlerFrom_wait (w : Nat) (rest : HandlerCode) (s : State) (hw : s.cfg.wf = true) (ha : s.hActive = true)
    (n : Nat) :
    handlerFrom (.wait w rest) s n =
      if n < w then .next (State.tick { coast n s with hItems := Code.waitThen (w - 1 - n) rest })
      else handlerFrom rest (coast w s) (n - w) := by
  induction n generalizing w s with
  | zero =>
    cases w with
    | zero => rfl
    | succ w => rfl
  | succ n ih =>
    cases w with
    | zero => rfl
    | succ w =>
      have hstep : handlerFrom (.wait (w + 1) rest) s (n + 1) =
          runSteps (n + 1) (State.tick { s with hItems := Code.waitThen w rest }) := rfl
      have hgo : runSteps (n + 1) (State.tick { s with hItems := Code.waitThen w rest }) =
          handlerFrom (Code.waitThen w rest) s.tick.edgeDetect n := by
        rw [runSteps_active (by exact hw) (by exact ha)]
        exact handlerFrom_hItems (Code.waitThen w rest) s.tick.edgeDetect (Code.waitThen w rest) n
      rw [hstep, hgo]
      cases w with
      | zero =>
        rw [if_neg (by omega)]
        rfl
      | succ w =>
        show handlerFrom (.wait (w + 1) rest) s.tick.edgeDetect n = _
        rw [ih (w + 1) s.tick.edgeDetect hw ha]
        have h1 : w + 1 - 1 - n = w + 1 + 1 - 1 - (n + 1) := by omega
        have h2 : n - (w + 1) = n + 1 - (w + 1 + 1) := by omega
        rw [h1, h2]
        by_cases hlt : n < w + 1
        · rw [if_pos hlt, if_pos (by omega)]; rfl
        · rw [if_neg hlt, if_neg (by omega)]; rfl

/-- A frame's run after a low start-bit check, `k` cycles after its dispatch in `d`: the phase it is in and the byte
accumulated (R87). -/
def inFrame (d : State) (k : Nat) (phase : Phase) (acc : Byte) : State :=
  { coast k d with hLvl := false, hPhase := phase, acc := acc }

theorem coast_inFrame (d : State) (j k : Nat) (phase : Phase) (acc : Byte) :
    coast j (inFrame d k phase acc) = inFrame d (k + j) phase acc := by
  unfold inFrame
  rw [coast_with, coast_add]

theorem inFrame_delayCycles (d : State) (k : Nat) (phase : Phase) (acc : Byte) (n : TickSource) :
    (inFrame d k phase acc).delayCycles n = d.delayCycles n := by
  rw [← coast_delayCycles k d n]
  cases n <;> rfl

/-- The frame's run, dispatched from a state after edge detection, as an update of that state. -/
theorem inFrame_dispatch (items : HandlerCode) (s : State) (k : Nat) (phase : Phase) (acc : Byte) :
    inFrame (s.edgeDetect.dispatch items) k phase acc = { s with
      now := s.now + k, pending := (coast k (s.edgeDetect.dispatch items)).pending, rxPrev := s.rxAt (s.now + k)
      hSaved := s.gie, gie := false, hActive := true, hPhase := phase, hItems := items, hLvl := false, acc := acc } := by
  unfold inFrame
  rw [coast_dispatch]

theorem handlerFrom_inFrame_wait {d : State} (hw : d.cfg.wf = true) (ha : d.hActive = true) (w : Nat)
    (rest : HandlerCode) (k : Nat) (phase : Phase) (acc : Byte) (n : Nat) :
    handlerFrom (.wait w rest) (inFrame d k phase acc) n =
      if n < w then
        .next (State.tick { inFrame d (k + n) phase acc with hItems := Code.waitThen (w - 1 - n) rest })
      else handlerFrom rest (inFrame d (k + w) phase acc) (n - w) := by
  rw [handlerFrom_wait _ _ _ (by unfold inFrame; simpa using hw) (by unfold inFrame; simpa using ha), coast_inFrame,
    coast_inFrame]

/-- The sample of data bit `i` (R91). -/
theorem inFrame_sample (d : State) (k : Nat) (phase : Phase) (acc : Byte) (i : Fin 8) :
    runHandlerAct (.sample i) (inFrame d k phase acc) =
      .ok (inFrame d k (phaseAfterSample i) (acc.setBit i (d.rxAt (d.now + k)))) := by
  have hrx : (inFrame d k phase acc).rxNow = d.rxAt (d.now + k) := by rw [← coast_rxNow]; rfl
  simp only [runHandlerAct, State.sampleBit, hrx]
  rfl

end Sys2Proof.Machine
end

