-- ==== Sys2Proof/Laws/PerInstr.lean ====
section
/-! SUPPORT. What holds of every command, one lemma per constructor: the number its word is (30_encoding.md R64, R68,
R69). -/

namespace Sys2Proof.Laws

/-- The word's top byte without its operand, from the tables of R64 and R68: `op`, and a harness word's `sub`. -/
def tableBase : Instr → Nat
  | .beginBaud _ => 0x10000000
  | .endSession => 0x20000000
  | .flush => 0x30000000
  | .available => 0x40000000
  | .read => 0x50000000
  | .peek => 0x60000000
  | .write _ => 0x70000000
  | .overflowed => 0x80000000
  | .idle _ => 0xF0000000
  | .sei => 0xF1000000
  | .cli => 0xF2000000

/-- The operand R69 adds to it. -/
def tableOperand : Instr → Nat
  | .beginBaud baud => baud
  | .endSession => 0
  | .flush => 0
  | .available => 0
  | .read => 0
  | .peek => 0
  | .write byte => byte.toNat
  | .overflowed => 0
  | .idle n => n
  | .sei => 0
  | .cli => 0

/-- A well-formed command's word is its row of the table plus its operand. -/
def EncodeFields.Statement (i : Instr) : Prop := i.wf = true → (encode i).toNat = tableBase i + tableOperand i

theorem EncodeFields.beginBaud (baud : Nat) : EncodeFields.Statement (.beginBaud baud) := fun h =>
  (encode_beginBaud_toNat (of_decide_eq_true h)).trans (by simp [tableBase, tableOperand])

theorem EncodeFields.endSession : EncodeFields.Statement .endSession := fun _ => rfl

theorem EncodeFields.flush : EncodeFields.Statement .flush := fun _ => rfl

theorem EncodeFields.available : EncodeFields.Statement .available := fun _ => rfl

theorem EncodeFields.read : EncodeFields.Statement .read := fun _ => rfl

theorem EncodeFields.peek : EncodeFields.Statement .peek := fun _ => rfl

theorem EncodeFields.write (byte : Byte) : EncodeFields.Statement (.write byte) := fun _ =>
  (encode_write_toNat byte).trans (by simp [tableBase, tableOperand])

theorem EncodeFields.overflowed : EncodeFields.Statement .overflowed := fun _ => rfl

theorem EncodeFields.idle (n : Nat) : EncodeFields.Statement (.idle n) := fun h =>
  (encode_idle_toNat (of_decide_eq_true h)).trans (by simp [tableBase, tableOperand])

theorem EncodeFields.sei : EncodeFields.Statement .sei := fun _ => rfl

theorem EncodeFields.cli : EncodeFields.Statement .cli := fun _ => rfl

end Sys2Proof.Laws
end

