-- ==== Sys2Proof/Tests/Slice0.lean ====
section
/-! SUPPORT. Tests, their expected values from 95_test_vectors.md or by hand from the rules, and for every obligation with
hypotheses a witness that meets them. -/

namespace Sys2Proof.Tests

open Sys2Proof Sys2Proof.Machine

/-- A field of the next state, none when there is none. -/
def next? {α : Type} (f : State → α) : Host.Outcome State Fault Refusal → Option α
  | .next s => some (f s)
  | .fault _ => none
  | .refused _ => none

/-- The fault of an outcome. -/
def fault? : Host.Outcome State Fault Refusal → Option Fault
  | .next _ => none
  | .fault f => some f
  | .refused _ => none

/-- The state after reset under TC with a command stream. -/
def fetching (stream : List Word) : State := { State.reset with stream := stream }

/-- After `BEGIN 9600` under TC (95_test_vectors.md V-B1): the row's delays, armed, interrupts enabled. -/
def session : State :=
  { State.reset with rxCenter := 12, rxIntra := 25, rxStop := 25, txDelay := 25, armed := true, gie := true }

/-- TC with another start adjustment (TC3, TCF and TCM of 95_test_vectors.md). -/
def adjusted (startAdj : Nat) : State := { session with cfg := { Config.tc with startAdj := startAdj } }

/-- Armed with row 3 of TC, whose receive delays are 0 (95_test_vectors.md L2.4), and a line. -/
def zeroDelays (line : Line) : State := { State.reset with line := line, txDelay := 7, armed := true, gie := true }

/-- A configuration with small delays: `K = 1` and the rows `(1, 0, 4, 2, 4)`, so that a bit is four cycles. -/
def small : Params := { Config.tc with k := 1, calTable := [⟨1, 0, 4, 2, 4⟩] }

/-- Armed with the row of `small`, and a line. -/
def smallSession (line : Line) : State :=
  { State.reset with
    cfg := small, line := line, rxIntra := 4, rxStop := 2, txDelay := 4, armed := true, gie := true }

/-- The frame of 0xA5 from cycle `t0` on, four cycles a slot (30_encoding.md R61). -/
def frameA5 (t0 : Nat) : Line :=
  .wave [(t0, false), (t0 + 4, true), (t0 + 8, false), (t0 + 12, true), (t0 + 16, false), (t0 + 24, true),
    (t0 + 28, false), (t0 + 32, true)]

/-! ### Well-formedness -/

theorem test_baud_out_of_range_refused :
    Instr.wf (.beginBaud (2 ^ 28)) = false ∧ assembleInstr (.beginBaud (2 ^ 28)) = none := by decide

theorem test_idle_out_of_range_refused :
    Instr.wf (.idle (2 ^ 24)) = false ∧ assembleInstr (.idle (2 ^ 24)) = none := by decide

theorem test_operands_at_their_bounds_assemble :
    assembleInstr (.beginBaud (2 ^ 28 - 1)) = some 0x1FFFFFFF ∧ assembleInstr (.idle (2 ^ 24 - 1)) = some 0xF0FFFFFF := by
  decide

/-- 00_scope.md R7 and 20_memory.md R47, one check at a time. -/
theorem test_configuration_checks :
    Config.tc.wf = true ∧ Params.wf { Config.tc with k := 0 } = false ∧ Params.wf { Config.tc with c := 1 } = false ∧
      Params.wf { Config.tc with c := 6 } = false ∧ Params.wf { Config.tc with c := 512 } = false ∧
        Params.wf { Config.tc with ovfGap := 0 } = false ∧
          Params.wf { Config.tc with calTable := [⟨0, 1, 1, 1, 1⟩] } = false ∧
            Params.wf { Config.tc with calTable := [⟨1, 1, 1, 1, 65536⟩] } = false := by decide

theorem test_ideal_profile : Config.tc.ideal = true := by decide

/-! ### Decoding: the words of 95_test_vectors.md L2.1 -/

theorem test_decode_begin : decode 0x10002580 = .instr (.beginBaud 9600) := by decide
theorem test_decode_begin_top : decode 0x1FFFFFFF = .instr (.beginBaud 268435455) := by decide
theorem test_decode_end : decode 0x20000000 = .instr .endSession := by decide
theorem test_decode_flush : decode 0x30000000 = .instr .flush := by decide
theorem test_decode_available : decode 0x40000000 = .instr .available := by decide
theorem test_decode_read : decode 0x50000000 = .instr .read := by decide
theorem test_decode_peek : decode 0x60000000 = .instr .peek := by decide
theorem test_decode_write : decode 0x700000A5 = .instr (.write 0xA5) := by decide
theorem test_decode_overflowed : decode 0x80000000 = .instr .overflowed := by decide
theorem test_decode_idle : decode 0xF00007D0 = .instr (.idle 2000) := by decide
theorem test_decode_sei : decode 0xF1000000 = .instr .sei := by decide
theorem test_decode_cli : decode 0xF2000000 = .instr .cli := by decide

/-- The reserved words of a list decode as reserved. -/
def allReserved (ws : List Word) : Bool := ws.all fun w => decide (decode w = .reserved w)

theorem test_reserved_ops : allReserved [0x00000000, 0x90000000, 0xE0000000, 0xF3000000, 0xFF000000] = true := by decide

theorem test_reserved_operands :
    allReserved [0x20000001, 0x70000100, 0x7FF00000, 0x88000000, 0xF1000001] = true := by decide

/-- 20_memory.md R49: little-endian. -/
theorem test_bytes_little_endian :
    decodeBytes [0xA5, 0x00, 0x00, 0x70] = .instr (.write 0xA5) [] ∧ decodeBytes [0xA5, 0x00, 0x00] = .truncated := by
  decide

theorem test_response_bytes_little_endian :
    bytesOfResponse 0xFF01 = [0x01, 0xFF] ∧ responseOfBytes 0x41 0x00 = 0x0041 := by decide

theorem test_table_word : decodeTableWord 32 0x700000A5 = some (.write 0xA5) ∧ decodeTableWord 32 0 = none := by decide

/-- R69: a comment, a hexadecimal operand, an operand out of range, and lines. -/
theorem test_assemble_line : assembleLine "WRITE 0xA5 ; x".toList = some [0x700000A5] := by rfl

theorem test_assemble_refuses : assembleLine "WRITE 256".toList = none := by rfl

theorem test_assemble_lines : assemble "END\n;\nSEI".toList = some [0x20000000, 0xF1000000] := by rfl

/-- L1.1. -/
theorem test_frame_word : frameWord 0xA5 = 0x34A := by decide

/-! ### Steps -/

theorem test_placed_word_runs : next? (·.gie) (step (State.reset.withFetchWord 32 0xF1000000)) = some true := by decide

/-- V-B4: `BEGIN 2400` in one cycle. -/
theorem test_begin_zero_pause :
    next? (fun s => ((s.rxCenter, s.rxIntra, s.rxStop, s.txDelay), s.armed, s.gie)) (exec (.beginBaud 2400) State.reset) =
      some ((50, 100, 100, 0), true, true) := by decide

/-- V-B3: `BEGIN 1200` after a session. -/
theorem test_begin_unsupported :
    next? (fun s => ((s.rxCenter, s.rxIntra, s.rxStop, s.txDelay), s.armed, s.gie)) (exec (.beginBaud 1200) session) =
      some ((0, 0, 0, 0), false, true) := by decide

/-- V-B7. -/
theorem test_end : next? (fun s => (s.armed, s.txDelay)) (exec .endSession session) = some (false, 25) := by decide

/-- V-Q9. -/
theorem test_flush :
    next? (fun s => (s.head, s.tail, s.ovf, s.gie)) (exec .flush { session with head := 1, tail := 3, ovf := true }) =
      some (0, 0, true, true) := by decide

/-- V-Q3. -/
theorem test_available_wraps :
    next? (·.resp) (exec .available { session with head := 3, tail := 1 }) = some (some 2) := by decide

/-- V-Q4. -/
theorem test_read_wraps :
    next? (fun s => (s.resp, s.head)) (exec .read { session with head := 3, tail := 0, buf := [(3, 0x44)] }) =
      some (some 0x44, 0) := by decide

/-- V-Q7: 0xFF is not -1. -/
theorem test_read_ff :
    next? (·.resp) (exec .read { session with tail := 1, buf := [(0, 0xFF)] }) = some (some 0x00FF) := by decide

/-- V-Q6. -/
theorem test_peek_empty :
    next? (fun s => (s.resp, s.head)) (exec .peek { session with head := 2, tail := 2 }) = some (some 0xFFFF, 2) := by
  decide

/-- P2: PEEK of a received byte. -/
theorem test_peek_keeps_the_byte :
    next? (fun s => (s.resp, s.head)) (exec .peek { session with tail := 1, buf := [(0, 0xA5)] }) =
      some (some 0x00A5, 0) := by decide

/-- V-Q11. -/
theorem test_overflowed :
    next? (fun s => (s.resp, s.ovf)) (State.runCommand .overflowed 1 { session with ovf := true }) =
      some (some 1, false) := by decide

/-- V-T5. -/
theorem test_write_unconfigured :
    next? (fun s => (s.resp, s.tx, s.gie)) (exec (.write 0x41) State.reset) = some (some 0, true, false) := by decide

/-- V-T1: the start bit. -/
theorem test_write_start_bit :
    next? (fun s => (s.tx, s.gie, s.resp)) (exec (.write 0xA5) session) = some (false, false, none) := by decide

/-- V-T7. -/
theorem test_write_delay_range : fault? (exec (.write 0x41) (adjusted 65511)) = some .delayRange := by decide

/-- L2.1: IDLE 0 takes one cycle. -/
theorem test_idle_zero : next? (·.fgItems) (exec (.idle 0) session) = some .done := by decide

theorem test_idle_two : next? (·.fgItems) (exec (.idle 2) session) = some (.wait 1 .done) := by decide

theorem test_cli : next? (·.gie) (exec .cli session) = some false := by decide

theorem test_sei : next? (·.gie) (exec .sei State.reset) = some true := by decide

/-- V-X2: a rise is dispatched, checked and discarded in one cycle, and `gie` is 1 again. -/
theorem test_rise_is_spurious :
    next? (fun s => (s.pending, s.gie, s.hActive, s.tail)) (step { session with rxPrev := false }) =
      some (false, true, false, 0) := by decide

/-- L2.4, zero delays: check, samples, commit and return in the cycle of the dispatch. -/
theorem test_zero_delay_frame :
    next? (fun s => (s.tail, s.buf.read 0, s.hActive, s.gie)) (step (zeroDelays (.wave [(0, false)]))) =
      some (1, 0x00, false, true) := by decide

/-- V-Q8. -/
theorem test_commit_when_full :
    next? (fun s => (s.tail, s.ovf)) (step { zeroDelays (.wave [(0, false)]) with head := 1 }) = some (0, true) := by
  decide

/-- V-X4: with the receiver disarmed an edge is not latched. -/
theorem test_edge_while_disarmed :
    next? (·.pending) (step { session with armed := false, rxPrev := false }) = some false := by decide

/-! ### Memory -/

theorem test_memory_canonical : Memory.write (Memory.write [(1, 2), (3, 4)] 2 9) 1 0 = [(2, 9), (3, 4)] := by decide

theorem test_reset_memory : State.reset.buf.wf = true := by decide

/-- `State.reset` is TC's reset state with an idle line, no command and no foreign cycle. -/
theorem test_reset : State.reset = State.resetWith Config.tc (.wave []) [] [] := by decide

/-! ### Witnesses: states and operands that meet the hypotheses of the obligations, clause by clause -/

theorem witness_DecodeOfEncodeIsTheCommand :
    Instr.wf (.beginBaud (2 ^ 28 - 1)) = true ∧ Instr.wf (.write 255) = true ∧ Instr.wf (.idle (2 ^ 24 - 1)) = true := by
  decide

theorem witness_EveryCommandHasOneWord :
    decode 0x1FFFFFFF = .instr (.beginBaud 268435455) ∧ decode 0xF0FFFFFF = .instr (.idle 16777215) := by decide

theorem witness_ReservedWordsAreRefused :
    (fetching [0x20000001]).cfg.wf = true ∧ (fetching [0x20000001]).FgTurn ∧ (fetching [0x20000001]).fgItems = .done ∧
      (fetching [0x20000001]).stream[(fetching [0x20000001]).cp]? = some 0x20000001 ∧
        decode 0x20000001 = .reserved 0x20000001 :=
  ⟨by decide, by decide, rfl, rfl, by decide⟩

theorem witness_BytesDecodeLittleEndian :
    decode 0x700000A5 = .instr (.write 0xA5) ∧ decode 0x70000100 = .reserved 0x70000100 ∧
      bytesOfResponse 0xFFFF = [0xFF, 0xFF] := by decide

theorem witness_FrameWordHoldsTheSlotLevels :
    (0 < 10 ∧ frameLevel 0xA5 0 = false) ∧ (8 < 10 ∧ frameLevel 0xA5 8 = true) ∧ (9 < 10 ∧ frameLevel 0xA5 9 = true) := by
  decide

theorem witness_StepRunsTheDecodedCommand :
    (fetching [0xF1000000]).cfg.wf = true ∧ (fetching [0xF1000000]).FgTurn ∧ (fetching [0xF1000000]).fgItems = .done ∧
      (fetching [0xF1000000]).stream[(fetching [0xF1000000]).cp]? = some 0xF1000000 ∧
        decode 0xF1000000 = .instr .sei :=
  ⟨by decide, by decide, rfl, rfl, by decide⟩

theorem witness_PlacedWordIsRunNext :
    State.reset.cfg.wf = true ∧ decodeTableWord 32 0xF1000000 = some .sei := by decide

/-- An active handler about to return. -/
def returning : State :=
  { session with gie := false, hActive := true, hPhase := .committed, hSaved := true, hItems := .act .leave .done }

/-- A state with an edge pending, and a state whose cycle is drawn for a foreign handler. -/
def pendingEdge : State := { session with pending := true }

def foreignDrawn : State := { session with cfg := { Config.tc with extIrq := true }, foreign := [0] }

/-- In the middle of IDLE. -/
def idling : State := { session with fgItems := .wait 5 .done }

theorem witness_CycleBelongsToOneContext :
    (returning.cfg.wf = true ∧ returning.hActive = true) ∧
    (pendingEdge.cfg.wf = true ∧ pendingEdge.hActive = false ∧ pendingEdge.edgeDetect.dispatchable = true) ∧
    (foreignDrawn.cfg.wf = true ∧ foreignDrawn.hActive = false ∧ foreignDrawn.edgeDetect.dispatchable = false ∧
      foreignDrawn.edgeDetect.foreignCycle = true) ∧
    (idling.cfg.wf = true ∧ idling.FgTurn ∧ idling.fgItems.isDone = false) ∧
    (session.cfg.wf = true ∧ session.FgTurn ∧ session.fgItems = .done ∧ session.stream[session.cp]? = none) := by decide

/-- `step` gives a next state. -/
def runs (s : State) : Bool := (next? (fun _ => ()) (step s)).isSome

theorem step_of_runs {s : State} (h : runs s = true) : ∃ t, step s = .next t := by
  unfold runs next? at h
  split at h
  · exact ⟨_, ‹_›⟩
  · simp at h
  · simp at h

theorem witness_EdgeDetectionLatchesChanges :
    pendingEdge.cfg.wf = true ∧ pendingEdge.hActive = false ∧ pendingEdge.edgeDetect.dispatchable = true ∧
      ∃ t, step pendingEdge = .next t := ⟨by decide, rfl, by decide, step_of_runs (by decide)⟩

theorem witness_OnlyDispatchClearsPending :
    (∃ t, step pendingEdge = .next t ∧ (pendingEdge.hActive = false ∧ pendingEdge.edgeDetect.dispatchable = true)) ∧
    ∃ t, step session = .next t ∧ ¬ (session.hActive = false ∧ session.edgeDetect.dispatchable = true) :=
  ⟨(step_of_runs (by decide)).imp fun _ h => ⟨h, by decide⟩, (step_of_runs (by decide)).imp fun _ h => ⟨h, by decide⟩⟩

theorem witness_InputsNeverChange : ∃ t, step pendingEdge = .next t := step_of_runs (by decide)

theorem witness_StreamPositionAdvancesByFetches :
    (∃ t, step (fetching [0xF1000000]) = .next t ∧ ((fetching [0xF1000000]).FgTurn ∧
      (fetching [0xF1000000]).fgItems = .done ∧ (fetching [0xF1000000]).cp < (fetching [0xF1000000]).stream.length)) ∧
    ∃ t, step idling = .next t ∧ ¬ (idling.FgTurn ∧ idling.fgItems = .done ∧ idling.cp < idling.stream.length) :=
  ⟨(step_of_runs (by decide)).imp fun _ h => ⟨h, by decide⟩, (step_of_runs (by decide)).imp fun _ h => ⟨h, by decide⟩⟩

theorem witness_OnlyTheHandlerReceives :
    ∃ t, step (fetching [0x30000000]) = .next t ∧ ¬ (fetching [0x30000000]).HandlerTurn :=
  (step_of_runs (by decide)).imp fun _ h => ⟨h, by decide⟩

/-- A frame of zero delays arrives: with room, and with a full buffer. -/
def arriving : State := zeroDelays (.wave [(0, false)])

def arrivingFull : State := { arriving with head := 1 }

theorem witness_HandlerCycleFrame :
    (arriving.Inv ∧ arriving.HandlerTurn ∧ ∃ t, step arriving = .next t) ∧
    (arrivingFull.Inv ∧ arrivingFull.HandlerTurn ∧ ∃ t, step arrivingFull = .next t) :=
  ⟨⟨by decide, by decide, step_of_runs (by decide)⟩, ⟨by decide, by decide, step_of_runs (by decide)⟩⟩

theorem witness_IllFormedConfigurationIsRefused :
    Config.tc.wf = true ∧ Params.wf { Config.tc with c := 256 } = true ∧ Params.wf { Config.tc with c := 2 } = true ∧
      Params.wf { Config.tc with k := 0 } = false := by decide

theorem witness_ResetGivesTheSpecsValues : Params.wf Config.tc = true ∧ Params.wf small = true := by decide

theorem witness_ResetMeetsTheInvariant : (fetching [0x20000000]).cfg.wf = true ∧ (fetching [0x20000000]).IsReset := by
  decide

theorem witness_StepKeepsTheInvariant :
    (session.Inv ∧ ∃ t, step session = .next t) ∧ (returning.Inv ∧ ∃ t, step returning = .next t) ∧
      (idling.Inv ∧ ∃ t, step idling = .next t) :=
  ⟨⟨by decide, step_of_runs (by decide)⟩, ⟨by decide, step_of_runs (by decide)⟩, ⟨by decide, step_of_runs (by decide)⟩⟩

/-- TCF about to fetch a WRITE. -/
def overrunning : State := { adjusted 65511 with stream := [0x70000041] }

theorem fault_of_fault? {o : Host.Outcome State Fault Refusal} {f : Fault} (h : fault? o = some f) : o = .fault f := by
  cases o <;> simp_all [fault?]

theorem witness_OnlyFaultIsDelayRange : overrunning.Inv ∧ ∃ f, step overrunning = .fault f :=
  ⟨by decide, .delayRange, fault_of_fault? (by decide)⟩

theorem witness_SlotOutsideTheBufferFaults :
    ({ session with head := 4 }.cfg.c ≤ { session with head := 4 }.head.toNat ∧
      { session with head := 4 }.head ≠ { session with head := 4 }.tail) ∧
    { session with tail := 4 }.cfg.c ≤ { session with tail := 4 }.tail.toNat ∧
      { session with tail := 4 }.isFull = false := by decide

/-- A stale byte in slot 2, and none: the occupied slot 0 is the same. -/
def staleSlot : State := { session with tail := 1, buf := [(0, 7), (2, 9)] }

def cleanSlot : State := { session with tail := 1, buf := [(0, 7)] }

theorem witness_UnoccupiedSlotsAreNeverObserved :
    staleSlot.Inv ∧ cleanSlot.Inv ∧ staleSlot.AgreeOnOccupied cleanSlot ∧ staleSlot ≠ cleanSlot :=
  ⟨by decide, by decide, by decide, by decide⟩

theorem witness_RingBufferOperations :
    { session with head := 3, tail := 0 }.IndicesInRange ∧ { session with head := 0, tail := 3 }.IndicesInRange := by
  decide

theorem witness_SlotWriteReadsBack : Memory.wf [(1, 2), (3, 4)] = true := by decide

theorem witness_EqualSlotsAreEqualMemories :
    Memory.wf (Memory.write (Memory.write [] 1 2) 0 3) = true ∧ Memory.wf (Memory.write (Memory.write [] 0 3) 1 2) = true ∧
      ∀ a, Memory.read (Memory.write (Memory.write [] 1 2) 0 3) a = Memory.read (Memory.write (Memory.write [] 0 3) 1 2) a :=
  ⟨by decide, by decide, fun _ => rfl⟩

/-- A full buffer. -/
def fullBuffer : State := { session with tail := 3, buf := [(0, 0x11), (1, 0x22), (2, 0x33)] }

theorem witness_RingBufferRefinesAQueue :
    (session.Inv ∧ session.contents = [] ∧ session.contents.length < session.cfg.c - 1) ∧
      (fullBuffer.Inv ∧ fullBuffer.contents = 0x11 :: [0x22, 0x33] ∧
        fullBuffer.contents.length = fullBuffer.cfg.c - 1) := ⟨by decide, by decide⟩

theorem witness_CapacityIsOneLessThanTheSlots :
    session.Inv ∧ session.head = session.tail ∧ ([0x11, 0x22, 0x33] : List Byte).length = session.cfg.c - 1 := by decide

/-- TC with `CALL_PRE = 2`. -/
def latePre : State := { session with cfg := { Config.tc with callPre := 2 } }

theorem witness_NoEffectBeforeTheFirstAction :
    (∀ k, Instr.read ≠ .idle k) ∧ Instr.read ≠ .sei ∧ Instr.read ≠ .cli ∧ 1 < latePre.cfg.callPre :=
  ⟨by simp, by decide, by decide, by decide⟩

theorem witness_BeginInstallsPausesAndEnables :
    latePre.cfg.wf = true ∧ lookupRow latePre.cfg.calTable 9600 = some ⟨9600, 12, 25, 25, 25⟩ ∧
      (latePre.cfg.callPre ≤ 2 ∧ 2 < latePre.cfg.callPre + 25 * latePre.cfg.k) ∧
        (latePre.cfg.callPre ≤ 101 ∧ 101 < latePre.cfg.callPre + 25 * latePre.cfg.k) := by decide

theorem witness_UnsupportedBeginUnconfigures :
    lookupRow session.cfg.calTable 1200 = none ∧ lookupRow session.cfg.calTable 0 = none := by decide

theorem witness_AvailableRespondsTheOccupancy : 0 < fullBuffer.cfg.c := by decide

theorem witness_ReadPopsAByte :
    (fullBuffer.head.toNat < fullBuffer.cfg.c ∧ fullBuffer.head ≠ fullBuffer.tail) ∧
      (session.head.toNat < session.cfg.c ∧ session.head = session.tail) := by decide

theorem witness_PeekLeavesTheByte :
    (fullBuffer.head.toNat < fullBuffer.cfg.c ∧ fullBuffer.head ≠ fullBuffer.tail) ∧
      (session.head.toNat < session.cfg.c ∧ session.head = session.tail) := by decide

theorem witness_OverflowedReportsAndClears :
    latePre.cfg.callPre ≤ 2 ∧ 2 < latePre.cfg.callPre + latePre.cfg.ovfGap := by decide

theorem witness_HarnessWordsTouchOnlyGie : 0 + 1 < 2 ∧ 1998 + 1 < 2000 := by decide

theorem witness_UnconfiguredWriteRespondsZero : State.reset.txDelay = 0 := rfl

theorem witness_StartDelayOutOfRangeFaults :
    (adjusted 65511).txDelay ≠ 0 ∧ (adjusted 65511).txDelay.toNat + (adjusted 65511).cfg.startAdj ≥ 65536 ∧
      { latePre with cfg := { latePre.cfg with startAdj := 65511 } }.txDelay.toNat + 65511 ≥ 65536 ∧
        1 < { latePre with cfg := { latePre.cfg with startAdj := 65511 } }.cfg.callPre := by decide

theorem witness_ConfiguredWriteRespondsOne :
    (adjusted 65510).txDelay ≠ 0 ∧ (adjusted 65510).txDelay.toNat + (adjusted 65510).cfg.startAdj ≤ 65535 := by decide

/-- The slots of a WRITE under TC: a start bit, a data bit and the stop level, at the cycles where they meet (V-T1). -/
theorem witness_WriteDrivesTheFrame :
    session.txDelay ≠ 0 ∧ session.txDelay.toNat + session.cfg.startAdj ≤ 65535 ∧
      (session.slotStart 0xA5 0 ≤ 99 ∧ 99 < session.slotStart 0xA5 1) ∧
        (session.slotStart 0xA5 1 ≤ 100 ∧ 100 < session.slotStart 0xA5 2) ∧
          (session.slotStart 0xA5 8 ≤ 899 ∧ 899 < session.slotStart 0xA5 9) ∧
            (session.slotStart 0xA5 9 ≤ 900 ∧
              1000 ≤ session.slotStart 0xA5 9 + session.txDelay.toNat * session.cfg.k + session.cfg.txPost) := by decide

theorem witness_CommandsTakeTheirDurations :
    session.cfg.wf = true ∧ session.IndicesInRange ∧ session.txDelay.toNat + session.cfg.startAdj ≤ 65535 ∧
      999 + 1 < session.duration (.write 0xA5) ∧ session.duration (.write 0xA5) = 1001 := by decide

/-- A command alone gives a next state after `n` further cycles. -/
def runsAlone (i : Instr) (n : Nat) (s : State) : Bool := (next? (fun _ => ()) (s.runCommand i n)).isSome

theorem next_of_runsAlone {i : Instr} {n : Nat} {s : State} (h : runsAlone i n s = true) :
    ∃ t, s.runCommand i n = .next t := by
  unfold runsAlone next? at h
  split at h
  · exact ⟨_, ‹_›⟩
  · simp at h
  · simp at h

theorem witness_AccessorsFrame :
    (∃ t, fullBuffer.runCommand .available 0 = .next t) ∧ (∃ t, fullBuffer.runCommand .peek 0 = .next t) ∧
      (∃ t, fullBuffer.runCommand .read 1 = .next t) ∧ (∃ t, fullBuffer.runCommand .overflowed 1 = .next t) :=
  ⟨next_of_runsAlone (by decide), next_of_runsAlone (by decide), next_of_runsAlone (by decide),
    next_of_runsAlone (by decide)⟩

theorem witness_LifecycleFrame :
    (∃ t, fullBuffer.runCommand (.beginBaud 9600) 0 = .next t) ∧ (∃ t, fullBuffer.runCommand .endSession 0 = .next t) ∧
      (∃ t, fullBuffer.runCommand .flush 1 = .next t) :=
  ⟨next_of_runsAlone (by decide), next_of_runsAlone (by decide), next_of_runsAlone (by decide)⟩

theorem witness_TransmitAndHarnessFrame :
    (∃ t, fullBuffer.runCommand (.write 0xA5) 3 = .next t) ∧ (∃ t, fullBuffer.runCommand (.idle 3) 1 = .next t) ∧
      (∃ t, fullBuffer.runCommand .sei 0 = .next t) ∧ (∃ t, fullBuffer.runCommand .cli 0 = .next t) :=
  ⟨next_of_runsAlone (by decide), next_of_runsAlone (by decide), next_of_runsAlone (by decide),
    next_of_runsAlone (by decide)⟩

/-- In BEGIN's pause, and in a pause of no tick. -/
def pausing (txDelay : Ticks) : State :=
  { session with txDelay := txDelay, fgItems := .delay .txDelay (.act .enableInterrupts .done) }

theorem witness_DelayTakesItsTicks :
    (pausing 25).fgItems = .delay .txDelay (.act .enableInterrupts .done) ∧
      Code.isDone (.act .enableInterrupts .done : FgCode) = false ∧
        0 < (pausing 25).ticks .txDelay * (pausing 25).cfg.k ∧ (pausing 0).ticks .txDelay * (pausing 0).cfg.k = 0 := by
  decide

/-- Before the first supported BEGIN: an unsupported one about to be fetched, and a supported one waiting out its
`CALL_PRE`. -/
def beginningUnsupported : State := fetching [0x100004B0]

def beginningLate : State :=
  { State.reset with
    cfg := { Config.tc with callPre := 2 }
    fgItems := .wait 1 <| .act (.install 9600) <| .test .rowFound (.delay .txDelay <| .act .enableInterrupts .done) .done }

theorem witness_UnbegunBlockAnswersEmpty :
    (State.reset.cfg.wf = true ∧ State.reset.IsReset) ∧
    (beginningUnsupported.Unbegun ∧ beginningUnsupported.Installs 1200 ∧
      (∀ baud, beginningUnsupported.Installs baud → lookupRow beginningUnsupported.cfg.calTable baud = none) ∧
        ∃ t, step beginningUnsupported = .next t) ∧
    (beginningLate.Unbegun ∧
      (∀ baud, beginningLate.Installs baud → lookupRow beginningLate.cfg.calTable baud = none) ∧
        ∃ t, step beginningLate = .next t) ∧
    ∃ u, beginningLate.runCommand (.write 0x41) 2 = .next u := by
  refine ⟨by decide, ⟨⟨by decide, by decide, by decide, .inl rfl⟩, ?_, ?_, step_of_runs (by decide)⟩,
    ⟨⟨by decide, by decide, by decide, .inr ⟨1, 9600, rfl⟩⟩, ?_, step_of_runs (by decide)⟩,
    next_of_runsAlone (by decide)⟩
  · exact .inl ⟨⟨by decide, rfl, _, rfl, by decide⟩, rfl⟩
  · rintro baud (⟨⟨_, _, w, hw, hd⟩, _⟩ | ⟨_, rest, h⟩)
    · cases hw
      rw [show decode 0x100004B0 = .instr (.beginBaud 1200) by decide] at hd
      cases hd
      decide
    · cases h
  · rintro baud (⟨⟨_, h, _⟩, _⟩ | ⟨_, rest, h⟩) <;> cases h

/-- An armed session with `gie` 0 whose line changes. -/
def masked (stream : List Word) : State :=
  { session with gie := false, stream := stream, line := .wave [(1, false), (50, true)] }

/-- IDLE 3 under TC, with a quiet line and with `gie` 0 under a changing one; and a WRITE under a line that changes in its
start bit, at the first and last cycle of the blind window. -/
theorem witness_UnpreemptedCommandRunsAsAlone :
    ((fetching [0xF0000003]).cfg.wf = true ∧ (fetching [0xF0000003]).Fetches (.idle 3) ∧
      (fetching [0xF0000003]).QuietFor (2 + 1) ∧
        (∃ u, { fetching [0xF0000003] with cp := 1 }.runCommand (.idle 3) 2 = .next u) ∧
          ∀ m v, m < 2 → { fetching [0xF0000003] with cp := 1 }.runCommand (.idle 3) m = .next v →
            v.fgItems.isDone = false ∧ (v.gie = false ∨
              ((fetching [0xF0000003]).cfg.extIrq = false ∧
                (v.armed = false ∨ (fetching [0xF0000003]).QuietFor (m + 2))))) ∧
    ((masked [0xF0000003]).cfg.wf = true ∧ (masked [0xF0000003]).Fetches (.idle 3) ∧
      (masked [0xF0000003]).armed = true ∧ (masked [0xF0000003]).rxAt 0 ≠ (masked [0xF0000003]).rxAt 1 ∧
        (∃ u, { masked [0xF0000003] with cp := 1 }.runCommand (.idle 3) 2 = .next u) ∧
          ∀ m v, m < 2 → { masked [0xF0000003] with cp := 1 }.runCommand (.idle 3) m = .next v →
            v.fgItems.isDone = false ∧ (v.gie = false ∨
              ((masked [0xF0000003]).cfg.extIrq = false ∧
                (v.armed = false ∨ (masked [0xF0000003]).QuietFor (m + 2))))) ∧
    ((masked [0x700000A5]).cfg.wf = true ∧ (masked [0x700000A5]).Fetches (.write 0xA5) ∧
      (masked [0x700000A5]).txDelay ≠ 0 ∧ (masked [0x700000A5]).txDelay.toNat + (masked [0x700000A5]).cfg.startAdj ≤ 65535 ∧
        (masked [0x700000A5]).gie = false ∧
          (8 < 9 ∧ (masked [0x700000A5]).slotStart 0xA5 8 ≤ 899 ∧ 899 < (masked [0x700000A5]).slotStart 0xA5 (8 + 1)) ∧
            (0 < 9 ∧ (masked [0x700000A5]).slotStart 0xA5 0 ≤ 0 ∧ 0 < (masked [0x700000A5]).slotStart 0xA5 (0 + 1))) := by
  refine ⟨⟨by decide, ⟨by decide, rfl, _, rfl, by decide⟩, ⟨rfl, ⟨_, rfl⟩, fun _ _ _ => rfl⟩, ⟨_, rfl⟩, ?_⟩,
    ⟨by decide, ⟨by decide, rfl, _, rfl, by decide⟩, rfl, by decide, ⟨_, rfl⟩, ?_⟩,
    ⟨by decide, ⟨by decide, rfl, _, rfl, by decide⟩, by decide, by decide, rfl, by decide, by decide⟩⟩
  all_goals
    intro m v hm hv
    rcases m with _ | _ | m
    · cases hv; exact ⟨rfl, .inl rfl⟩
    · cases hv; exact ⟨rfl, .inl rfl⟩
    · omega

theorem witness_DispatchEntersTheHandler :
    (pendingEdge.cfg.wf = true ∧ pendingEdge.hActive = false ∧ pendingEdge.edgeDetect.pending = true ∧
      pendingEdge.armed = true ∧ pendingEdge.gie = true) ∧
    (session.cfg.wf = true ∧ session.hActive = false ∧ session.edgeDetect.pending = false ∧
      ∃ t, step session = .next t) :=
  ⟨by decide, by decide, rfl, by decide, step_of_runs (by decide)⟩

theorem witness_ReturnRestoresGie :
    returning.cfg.wf = true ∧ returning.hActive = true ∧ returning.hItems = .act .leave .done := by decide

theorem witness_HandlerActionsMoveThePhase :
    session.rxNow = true ∧ arriving.rxNow = false ∧ fullBuffer.isFull = true ∧
      (session.isFull = false ∧ session.tail.toNat < session.cfg.c) ∧
        ({ session with head := 1, tail := 3 }.isFull = false ∧
          { session with head := 1, tail := 3 }.tail.toNat < { session with head := 1, tail := 3 }.cfg.c) := by decide

theorem witness_SampledByteHoldsTheLevels : (0 < 8 ∧ 7 < 8) ∧ (smallSession (frameA5 0)).sampledByte = 0xA5 := by decide

/-- A rise at cycle 0, with the check two cycles and the abort one cycle later. -/
def rising : State :=
  { session with cfg := { Config.tc with eRx := 2, rxXa := 1 }, rxPrev := false }

theorem witness_SpuriousEdgeIsDiscarded :
    rising.Inv ∧ rising.hActive = false ∧ rising.edgeDetect.dispatchable = true ∧
      rising.rxAt (rising.now + rising.cfg.eRx) = true ∧ rising.spuriousDuration = 4 := by decide

/-- A frame from cycle 0 on, with a bit of four cycles. -/
def framed : State := smallSession (frameA5 0)

theorem witness_ReceivedFrameIsCommitted :
    (framed.Inv ∧ framed.hActive = false ∧ framed.edgeDetect.dispatchable = true ∧
      framed.rxAt (framed.now + framed.cfg.eRx) = false ∧ framed.isFull = false ∧ framed.commitOffset = 34 ∧
        framed.frameDuration = 35) ∧
    (arrivingFull.Inv ∧ arrivingFull.hActive = false ∧ arrivingFull.edgeDetect.dispatchable = true ∧
      arrivingFull.rxAt (arrivingFull.now + arrivingFull.cfg.eRx) = false ∧ arrivingFull.isFull = true) := ⟨by decide, by decide⟩

/-- A frame's run of two cycles, with a change in the second. -/
def changing : State :=
  { zeroDelays (.wave [(0, false), (1, true)]) with cfg := { Config.tc with rxXr := 1 } }

theorem witness_ChangesDuringTheRunArePending :
    changing.Inv ∧ changing.hActive = false ∧ changing.edgeDetect.dispatchable = true ∧
      changing.rxAt (changing.now + changing.cfg.eRx) = false ∧
        (∃ t, runSteps changing.frameDuration changing = .next t ∧ t.pending = true) ∧
          (changing.now < 1 ∧ 1 < changing.now + changing.frameDuration ∧ changing.rxAt 1 ≠ changing.rxAt (1 - 1)) :=
  ⟨by decide, rfl, by decide, by decide, ⟨_, rfl, rfl⟩, by decide⟩

/-- `frameA5 0` carries 0xA5 in slots of four cycles. -/
theorem framed_levels : ∀ t, t < 40 → framed.rxAt t = frameLevel 0xA5 (t / 4) := by decide

theorem witness_FrameOnTheLineIsReceived :
    framed.Inv ∧ framed.hActive = false ∧ framed.edgeDetect.dispatchable = true ∧ framed.isFull = false ∧
      framed.rxAt (framed.now + framed.cfg.eRx) = false ∧
        (∀ j t, j < 10 → 4 * j ≤ t → t < 4 * (j + 1) → framed.rxAt t = frameLevel 0xA5 j) ∧
          ∀ i, i < 8 → 4 * (i + 1) ≤ framed.now + framed.sampleOffset i ∧
            framed.now + framed.sampleOffset i < 4 * (i + 2) := by
  refine ⟨by decide, rfl, by decide, by decide, by decide, fun j t hj h1 h2 => ?_, by decide⟩
  rw [framed_levels t (by omega), show t / 4 = j by omega]

/-- The transmitting block and the receiving block, one cycle of wire apart: WRITE drives the start bit in cycle 0, and the
receiver, at cycle 1, sees it. -/
def sender : State := smallSession (.wave [])

def receiver : State := { smallSession (frameA5 1) with now := 1 }

theorem sender_drives :
    ∀ n, n < 36 → next? (·.tx) (sender.runCommand (.write 0xA5) (0 + n)) = some (receiver.rxAt (0 + n + 1)) := by decide

theorem witness_RoundTripDeliversTheByte :
    sender.txDelay ≠ 0 ∧ sender.txDelay.toNat + sender.cfg.startAdj ≤ 65535 ∧
      receiver.Inv ∧ receiver.hActive = false ∧ receiver.edgeDetect.dispatchable = true ∧ receiver.isFull = false ∧
        receiver.rxAt (receiver.now + receiver.cfg.eRx) = false ∧
          (∀ n u, sender.runCommand (.write 0xA5) (sender.cfg.callPre + n) = .next u →
            n < sender.slotStart 0xA5 9 → receiver.rxAt (0 + n + 1) = u.tx) ∧
            ∀ i, i < 8 → 0 + 1 + sender.slotStart 0xA5 (i + 1) ≤ receiver.now + receiver.sampleOffset i ∧
              receiver.now + receiver.sampleOffset i < 0 + 1 + sender.slotStart 0xA5 (i + 2) := by
  refine ⟨by decide, by decide, by decide, rfl, by decide, by decide, by decide, fun n u hu hn => ?_, by decide⟩
  have hs := sender_drives n hn
  rw [show 0 + n = sender.cfg.callPre + n from rfl, hu] at hs
  exact (Option.some.inj hs).symm

theorem witness_QuiescentBlockStaysQuiet :
    session.cfg.wf = true ∧ session.Quiescent ∧ session.rxNow = session.rxPrev := by decide

end Sys2Proof.Tests
end

section
/-! What 00_scope.md says of the model: which configurations it refuses (R7, 20_memory.md R47), and that a command of the
block waits `CALL_PRE` before its first action (R6). -/

namespace Sys2Proof.Machine

/-! ### Well-formed configurations -/

/-- The capacities are listed as R7 bounds them: the powers of two with exponents 1 to 8. -/
theorem mem_capacities_iff (c : Nat) : c ∈ Config.capacities ↔ ∃ n, 1 ≤ n ∧ n ≤ 8 ∧ c = 2 ^ n := by
  have hlist : Config.capacities = (List.range' 1 8).map (2 ^ ·) := rfl
  simp only [hlist, List.mem_map, List.mem_range'_1, Nat.reduceAdd, Nat.lt_succ_iff, and_assoc, eq_comm]

theorem calRow_wf_iff (r : CalRow) :
    r.wf = true ↔ 1 ≤ r.baud ∧ r.baud ≤ 2 ^ 28 - 1 ∧ r.center ≤ 2 ^ 16 - 1 ∧ r.intra ≤ 2 ^ 16 - 1 ∧
      r.stop ≤ 2 ^ 16 - 1 ∧ r.tx ≤ 2 ^ 16 - 1 := by
  rw [show 2 ^ 16 - 1 = Config.maxTicks from rfl]
  simp only [CalRow.wf, Bool.and_eq_true, decide_eq_true_eq, and_assoc]

theorem params_wf_iff (p : Params) :
    p.wf = true ↔
      1 ≤ p.k ∧ p.c ∈ Config.capacities ∧ 1 ≤ p.ovfGap ∧ ∀ r ∈ p.calTable, r.wf = true := by
  simp only [Params.wf, Bool.and_eq_true, decide_eq_true_eq, List.contains_iff_mem, List.all_eq_true, and_assoc]

/-! ### Refusals -/

theorem advanceHandler_ne_refused (s : State) (r : Refusal) : s.advanceHandler ≠ .refused r := by
  unfold State.advanceHandler
  split <;> exact nofun

theorem resumeFg_ne_refused (s : State) (r : Refusal) : s.resumeFg ≠ .refused r := by
  unfold State.resumeFg
  split <;> exact nofun

theorem exec_ne_refused (i : Instr) (s : State) (r : Refusal) : exec i s ≠ .refused r := by
  rw [exec_eq_startCommand]
  exact resumeFg_ne_refused _ r

theorem thenTick_eq_refused {o : Host.Outcome State Fault Refusal} {r : Refusal} (h : thenTick o = .refused r) :
    o = .refused r := by
  cases o with
  | next u => cases h
  | fault f => cases h
  | refused r => exact h

/-- The foreground's cycle is refused only by the fetch of a reserved word (30_encoding.md R66). -/
theorem advanceFg_refused_cases {s : State} {r : Refusal} (h : s.advanceFg = .refused r) :
    ∃ w v, s.stream[s.cp]? = some w ∧ decode w = .reserved v ∧ r = .reserved v := by
  unfold State.advanceFg at h
  split at h
  · split at h
    · next w hw =>
      unfold State.runWord at h
      split at h
      · exact absurd h (exec_ne_refused _ _ r)
      · next v hv => cases h; exact ⟨w, v, hw, hv, rfl⟩
    · cases h
  · exact absurd h (resumeFg_ne_refused s r)

/-- Whichever context takes the cycle, only the fetch of a reserved word refuses it. -/
theorem runContexts_refused_cases {s : State} {r : Refusal} (h : s.runContexts = .refused r) :
    ∃ w v, s.stream[s.cp]? = some w ∧ decode w = .reserved v ∧ r = .reserved v := by
  unfold State.runContexts at h
  split at h
  · exact absurd h (advanceHandler_ne_refused _ r)
  · split at h
    · exact absurd h (advanceHandler_ne_refused _ r)
    · split at h
      · cases h
      · exact advanceFg_refused_cases h

/-- A step is refused for its configuration, or for a reserved word under a well-formed one (60_exceptions.md R122). -/
theorem step_refused_cases {s : State} {r : Refusal} (h : step s = .refused r) :
    (s.cfg.wf = false ∧ r = .config) ∨
      (s.cfg.wf = true ∧ ∃ w v, s.stream[s.cp]? = some w ∧ decode w = .reserved v ∧ r = .reserved v) := by
  cases hwf : s.cfg.wf with
  | false =>
    simp only [step, hwf, Bool.false_eq_true, if_false, Host.Outcome.refused.injEq] at h
    exact .inl ⟨rfl, h.symm⟩
  | true =>
    rw [step_of_wf hwf, cycle] at h
    exact .inr ⟨rfl, runContexts_refused_cases (s := s.edgeDetect) (thenTick_eq_refused h)⟩

theorem step_eq_refused_config_iff (s : State) : step s = .refused .config ↔ s.cfg.wf = false := by
  constructor
  · intro h
    rcases step_refused_cases h with ⟨hwf, -⟩ | ⟨-, w, v, -, -, hr⟩
    · exact hwf
    · cases hr
  · intro hwf
    simp [step, hwf]

theorem instantiate_eq_refused_config_iff (p : Params) (line : Line) (stream : List Word) (foreign : List Nat) :
    instantiate p line stream foreign = .refused .config ↔ p.wf = false := by
  cases hwf : p.wf <;> simp [instantiate, hwf]

/-- Settles O16, from the equivalences for the parameters, a step and instantiation. -/
theorem illFormedConfigurationIsRefused : Obligations.IllFormedConfigurationIsRefused := by
  refine ⟨fun p => ?_, step_eq_refused_config_iff, instantiate_eq_refused_config_iff⟩
  simp only [params_wf_iff, mem_capacities_iff, calRow_wf_iff]

/-! ### Before a command's first action -/

/-- A list's wait changes nothing while it lasts, when no response is outstanding, and the command is not complete. -/
theorem fgFrom_during_wait {w n : Nat} {rest : FgCode} {s : State} (hn : n < w) (hrest : rest.isDone = false)
    (hs : s.response = none) :
    ∃ code, fgFrom (.wait w rest) s n = .next { s with fgItems := code } ∧ code.isDone = false := by
  refine ⟨Code.waitThen (w - 1 - n) rest, ?_, ?_⟩
  · rw [fgFrom_wait, if_pos hn, complete_of_none (by exact hs)]
  · cases w - 1 - n with
    | zero => exact hrest
    | succ m => rfl

/-- The list of every command of the block begins with `wait(CALL_PRE)` and has an item after it (R6). -/
theorem itemsOf_begins_with_callPre {i : Instr} (hidle : ∀ k, i ≠ .idle k) (hsei : i ≠ .sei) (hcli : i ≠ .cli)
    (p : Params) : ∃ rest, itemsOf p i = .wait p.callPre rest ∧ rest.isDone = false := by
  cases i with
  | idle k => exact absurd rfl (hidle k)
  | sei => exact absurd rfl hsei
  | cli => exact absurd rfl hcli
  | beginBaud baud => exact ⟨_, rfl, rfl⟩
  | endSession => exact ⟨_, rfl, rfl⟩
  | flush => exact ⟨_, rfl, rfl⟩
  | available => exact ⟨_, rfl, rfl⟩
  | read => exact ⟨_, rfl, rfl⟩
  | peek => exact ⟨_, rfl, rfl⟩
  | write byte => exact ⟨_, rfl, rfl⟩
  | overflowed => exact ⟨_, rfl, rfl⟩

/-- Settles O28: the command is still in the wait its list begins with. -/
theorem noEffectBeforeTheFirstAction : Obligations.NoEffectBeforeTheFirstAction := by
  intro i s n hidle hsei hcli hn
  obtain ⟨rest, hitems, hrest⟩ := itemsOf_begins_with_callPre hidle hsei hcli s.cfg
  obtain ⟨code, hrun, hcode⟩ :=
    fgFrom_during_wait (s := { s with response := none }) hn hrest rfl
  refine ⟨{ s with response := none, fgItems := code }, ?_, rfl, hcode⟩
  rw [runCommand_eq_fgFrom, hitems, hrun]

end Sys2Proof.Machine
end

section
/-! The invariant of 10_state.md R32 is kept by every step: the registers and slots by every action of either context, and
the shape of the list of the context that takes the cycle by its advance. -/

namespace Sys2Proof.Machine

/-! ### The registers and the slots -/

/-- The clauses of the invariant that speak of the registers and the slots and not of the contexts' lists. -/
def State.DataOk (s : State) : Prop := s.cfg.wf = true ∧ s.IndicesInRange ∧ s.MemoryOk ∧ s.ArmedHoldsRow

theorem State.inv_iff (s : State) :
    s.Inv ↔ s.DataOk ∧ s.HandlerMasks ∧ s.HandlerShape ∧ FgCode.raisesGuarded s.fgItems = true := by
  constructor
  · rintro ⟨hwf, hidx, hmem, hmask, hrow, hshape, hfg⟩
    exact ⟨⟨hwf, hidx, hmem, hrow⟩, hmask, hshape, hfg⟩
  · rintro ⟨⟨hwf, hidx, hmem, hrow⟩, hmask, hshape, hfg⟩
    exact ⟨hwf, hidx, hmem, hmask, hrow, hshape, hfg⟩

theorem lookupRow_mem {table : List CalRow} {baud : Nat} {r : CalRow} (h : lookupRow table baud = some r) :
    r ∈ table := by
  induction table with
  | nil => cases h
  | cons q rest ih =>
    unfold lookupRow at h
    split at h
    · cases h; exact List.mem_cons_self
    · exact List.mem_cons_of_mem q (ih h)

/-- A row of a well-formed table fits the timing registers (20_memory.md R47). -/
theorem installTiming_holdsRow {r : CalRow} (h : r.wf = true) (s : State) : (s.installTiming (some r)).HoldsRow r := by
  obtain ⟨-, -, hcenter, hintra, hstop, htx⟩ := (calRow_wf_iff r).1 h
  simp only [State.installTiming, State.HoldsRow, BitVec.toNat_ofNat]
  omega

theorem State.DataOk.zero_lt {s : State} (hs : s.DataOk) : (0 : Byte).toNat < s.cfg.c := by
  have := capacity_of_wf hs.1
  show 0 < s.cfg.c
  omega

theorem State.DataOk.nextIndex_lt {s : State} (hs : s.DataOk) (i : Byte) : (nextIndex s.cfg.c i).toNat < s.cfg.c := by
  have := capacity_of_wf hs.1
  exact Machine.nextIndex_lt (by omega) (by omega) i

theorem beginSession_dataOk {s : State} (baud : Nat) (hs : s.DataOk) : (s.beginSession baud).DataOk := by
  have hzero := hs.zero_lt
  obtain ⟨hwf, -, hmem, -⟩ := hs
  rw [beginSession_eq]
  cases hr : lookupRow s.cfg.calTable baud with
  | none => exact ⟨hwf, ⟨hzero, hzero⟩, hmem, fun h => nomatch h⟩
  | some r =>
    have hrmem := lookupRow_mem hr
    have hrwf := ((params_wf_iff s.cfg).1 hwf).2.2.2 r hrmem
    exact ⟨hwf, ⟨hzero, hzero⟩, hmem, fun _ => ⟨r, hrmem, installTiming_holdsRow hrwf s⟩⟩

/-- The foreground zeroes the indices together or moves `head` to the next index, and arms only with a row installed. -/
theorem runFgAct_dataOk {a : FgAct} {s t : State} (h : runFgAct a s = .ok t) (hs : s.DataOk) : t.DataOk := by
  have ⟨hwf, hidx, hmem, hrow⟩ := hs
  cases a with
  | install baud => cases h; exact beginSession_dataOk (s := s.enterCritical) baud hs
  | disarm => cases h; exact ⟨hwf, hidx, hmem, fun h => nomatch h⟩
  | resetIndices => cases h; exact ⟨hwf, ⟨hs.zero_lt, hs.zero_lt⟩, hmem, hrow⟩
  | respondPop =>
    rcases respondPop_cases h with ⟨-, rfl⟩ | ⟨-, -, rfl⟩
    · exact hs
    · exact ⟨hwf, ⟨hs.nextIndex_lt s.head, hidx.2⟩, hmem, hrow⟩
  | respondPeek => rcases respondPeek_cases h with ⟨-, rfl⟩ | ⟨-, -, rfl⟩ <;> exact hs
  | enableInterrupts => cases h; exact hs
  | disableInterrupts => cases h; exact hs
  | respondCount => cases h; exact hs
  | readOverflow => cases h; exact hs
  | clearOverflow => cases h; exact hs
  | startBit => cases h; exact hs
  | dataBit level => cases h; exact hs
  | stopBit => cases h; exact hs
  | respond value => cases h; exact hs

/-- Of the handler's actions only the commit writes the buffer, at `tail` and inside it. -/
theorem runHandlerAct_dataOk {a : HandlerAct} {s t : State} (h : runHandlerAct a s = .ok t) (hs : s.DataOk) :
    t.DataOk := by
  cases a with
  | commit =>
    have ⟨hwf, ⟨hhead, _⟩, ⟨hcanonical, hwithin⟩, hrow⟩ := hs
    rcases commit_cases h with ⟨-, rfl⟩ | ⟨-, htail, rfl⟩
    · exact hs
    · exact ⟨hwf, ⟨hhead, hs.nextIndex_lt s.tail⟩,
        ⟨Memory.wf_write _ _ hcanonical, Memory.within_write hwithin htail⟩, hrow⟩
  | startCheck => cases h; exact hs
  | sample i => cases h; exact hs
  | leave => cases h; exact hs

/-! ### The handler's cycle -/

/-- The handler in its cycle: still in its list, active with `gie` 0, or returned with nothing left to run (R30, R32). -/
inductive State.InHandler (s : State) (code : HandlerCode) : Prop where
  | running (hdata : s.DataOk) (hactive : s.hActive = true) (hgie : s.gie = false) (hphase : s.hPhase ≠ .idle)
      (hreturn : HandlerCode.endsInReturn code = true) (hcommits : HandlerCode.commits code ≤ 1)
  | returned (hdata : s.DataOk) (hactive : s.hActive = false) (hphase : s.hPhase = .idle) (hdone : code = .done)

theorem phaseAfterSample_ne_idle (i : Fin 8) : phaseAfterSample i ≠ .idle := by
  unfold phaseAfterSample
  split <;> exact nofun

theorem startCheck_phase_ne_idle {s : State} (h : s.hPhase ≠ .idle) : s.startCheck.hPhase ≠ .idle := by
  show (if s.rxNow then s.hPhase else .sampling 0) ≠ .idle
  split
  · exact h
  · exact nofun

/-- Each of the handler's actions but the return leaves the handler in its list. -/
theorem State.InHandler.act {s t : State} {a : HandlerAct} {rest : HandlerCode} (hs : s.InHandler (.act a rest))
    (h : runHandlerAct a s = .ok t) : t.InHandler rest := by
  obtain ⟨hdata, hactive, hgie, hphase, hreturn, hcommits⟩ | ⟨-, -, -, hdone⟩ := hs
  case returned => cases hdone
  have hdata' := runHandlerAct_dataOk h hdata
  cases a with
  | startCheck =>
    cases h
    exact .running hdata' hactive hgie (startCheck_phase_ne_idle hphase) hreturn hcommits
  | sample i =>
    cases h
    exact .running hdata' hactive hgie (phaseAfterSample_ne_idle i) hreturn hcommits
  | commit =>
    have hrest : HandlerCode.commits rest + 1 ≤ 1 := hcommits
    rcases commit_cases h with ⟨-, rfl⟩ | ⟨-, -, rfl⟩ <;>
      exact .running hdata' hactive hgie nofun hreturn (by omega)
  | leave =>
    cases h
    exact .returned hdata' rfl rfl ((Code.isDone_iff rest).1 hreturn)

theorem inHandler_handsOn : HandsOn runHandlerAct handlerHolds State.InHandler where
  wait := by
    rintro s n rest (⟨hdata, hactive, hgie, hphase, hreturn, hcommits⟩ | ⟨-, -, -, hdone⟩)
    · exact ⟨.running hdata hactive hgie hphase hreturn hcommits,
        fun _ => .running hdata hactive hgie hphase hreturn hcommits⟩
    · cases hdone
  delay := by
    rintro s d rest (⟨hdata, hactive, hgie, hphase, hreturn, hcommits⟩ | ⟨-, -, -, hdone⟩)
    · exact ⟨.running hdata hactive hgie hphase hreturn hcommits,
        fun _ => .running hdata hactive hgie hphase hreturn hcommits⟩
    · cases hdone
  act _ _ _ _ hs h := hs.act h
  yes := by
    rintro s c yes no (⟨hdata, hactive, hgie, hphase, hreturn, hcommits⟩ | ⟨-, -, -, hdone⟩) -
    · simp only [HandlerCode.endsInReturn, HandlerCode.commits, Bool.and_eq_true, Nat.max_le] at hreturn hcommits
      exact .running hdata hactive hgie hphase hreturn.1 hcommits.1
    · cases hdone
  no := by
    rintro s c yes no (⟨hdata, hactive, hgie, hphase, hreturn, hcommits⟩ | ⟨-, -, -, hdone⟩) -
    · simp only [HandlerCode.endsInReturn, HandlerCode.commits, Bool.and_eq_true, Nat.max_le] at hreturn hcommits
      exact .running hdata hactive hgie hphase hreturn.2 hcommits.2
    · cases hdone

theorem rxItems_endsInReturn (p : Params) : HandlerCode.endsInReturn (rxItems p) = true := rfl

theorem rxItems_commits (p : Params) : HandlerCode.commits (rxItems p) = 1 := rfl

/-- In the handler's cycle the handler is in its list: the one in progress, or the one its dispatch starts. -/
theorem handlerStart_inHandler {s : State} (hs : s.Inv) : s.handlerStart.InHandler s.handlerStart.hItems := by
  obtain ⟨hdata, hmask, ⟨-, hshape⟩, -⟩ := (State.inv_iff s).1 hs
  unfold State.handlerStart
  split
  · next hactive =>
    obtain ⟨hphase, hreturn, hcommits⟩ := hshape hactive
    exact .running hdata hactive (hmask hactive) hphase hreturn hcommits
  · exact .running hdata rfl rfl nofun (rxItems_endsInReturn s.cfg) (rxItems_commits s.cfg).le

theorem handlerStart_fgItems (s : State) : s.handlerStart.fgItems = s.fgItems := by
  unfold State.handlerStart
  split <;> rfl

theorem advanceHandler_fgItems {s t : State} (h : s.advanceHandler = .next t) : t.fgItems = s.fgItems := by
  have hkeeps := (advanceHandler_keeps h).2
  simp only [State.foregroundContext, Prod.mk.injEq] at hkeeps
  exact hkeeps.2.2.2.1

theorem handlerCycle_inv {s u : State} (hs : s.Inv) (h : s.handlerStart.advanceHandler = .next u) : u.tick.Inv := by
  have hfg : FgCode.raisesGuarded u.fgItems = true := by
    rw [advanceHandler_fgItems h, handlerStart_fgItems]
    exact ((State.inv_iff s).1 hs).2.2.2
  obtain ⟨v, rest, hadvance, rfl⟩ := advanceHandler_eq_next h
  rw [State.inv_iff]
  rcases inHandler_handsOn.advance (handlerStart_inHandler hs) hadvance with
    ⟨hdata, hactive, hgie, hphase, hreturn, hcommits⟩ | ⟨hdata, hactive, hphase, hdone⟩
  · exact ⟨hdata, fun _ => hgie, ⟨fun h => absurd (hactive.symm.trans h) nofun,
      fun _ => ⟨hphase, hreturn, hcommits⟩⟩, hfg⟩
  · exact ⟨hdata, fun h => absurd (hactive.symm.trans h) nofun, ⟨fun _ => ⟨hphase, hdone⟩,
      fun h => absurd (hactive.symm.trans h) nofun⟩, hfg⟩

/-! ### The foreground's cycle -/

/-- The foreground in its cycle: its list raises where `raisesGuarded` allows it, or it is at that raise. -/
def State.InForeground (s : State) (code : FgCode) : Prop :=
  s.DataOk ∧ (FgCode.raisesGuarded code = true ∨ code = .raise .delayRange)

theorem inForeground_handsOn : HandsOn runFgAct fgHolds State.InForeground where
  wait := by
    rintro s n rest ⟨hdata, hguarded | hraise⟩
    · exact ⟨⟨hdata, .inl hguarded⟩, fun _ => ⟨hdata, .inl hguarded⟩⟩
    · cases hraise
  delay := by
    rintro s d rest ⟨hdata, hguarded | hraise⟩
    · exact ⟨⟨hdata, .inl hguarded⟩, fun _ => ⟨hdata, .inl hguarded⟩⟩
    · cases hraise
  act := by
    rintro s t a rest ⟨hdata, hguarded | hraise⟩ h
    · exact ⟨runFgAct_dataOk h hdata, .inl hguarded⟩
    · cases hraise
  yes := by
    rintro s c yes no ⟨hdata, hguarded | hraise⟩ -
    · cases c <;> simp only [FgCode.raisesGuarded, Bool.and_eq_true, Bool.or_eq_true, decide_eq_true_eq] at hguarded
      case startTooLong => exact ⟨hdata, hguarded.1.symm⟩
      all_goals exact ⟨hdata, .inl hguarded.1⟩
    · cases hraise
  no := by
    rintro s c yes no ⟨hdata, hguarded | hraise⟩ -
    · cases c <;> simp only [FgCode.raisesGuarded, Bool.and_eq_true] at hguarded <;>
        exact ⟨hdata, .inl hguarded.2⟩
    · cases hraise

/-- A cycle that gives a next state does not end at a raise, so its rest is guarded. -/
theorem State.InForeground.advance {code rest : FgCode} {s t : State} (hs : s.InForeground code)
    (h : Machine.advance runFgAct fgHolds code s = .ok (t, rest)) :
    t.DataOk ∧ FgCode.raisesGuarded rest = true := by
  rcases inForeground_handsOn.advance_ends hs h with ⟨rfl, hdata, -⟩ | ⟨n, k, rfl, ⟨hdata, -⟩, hwait⟩
  · exact ⟨hdata, rfl⟩
  · have hk : FgCode.raisesGuarded k = true := (hwait 0).2.resolve_right nofun
    exact ⟨hdata, by cases n <;> exact hk⟩

theorem itemsOf_raisesGuarded (p : Params) (i : Instr) : FgCode.raisesGuarded (itemsOf p i) = true := by
  cases i <;> rfl

/-- The foreground's cycle runs the list in progress, or the list of the command it fetches (R33). -/
theorem fgStart_cases {s r : State} (h : s.fgStart = some r) :
    (s.fgItems.isDone = false ∧ r = s.edgeDetect) ∨
      ∃ w i, s.fgItems = .done ∧ s.stream[s.cp]? = some w ∧ decode w = .instr i ∧
        r = { s.edgeDetect with cp := s.cp + 1, fgItems := itemsOf s.cfg i, response := none } := by
  unfold State.fgStart at h
  split at h
  · next hdone =>
    cases hw : s.stream[s.cp]? with
    | none => rw [hw] at h; cases h
    | some w =>
      rw [hw] at h
      simp only at h
      cases hi : decode w with
      | reserved v => rw [hi] at h; cases h
      | instr i =>
        rw [hi] at h
        cases h
        exact .inr ⟨w, i, (Code.isDone_iff _).1 hdone, rfl, hi, rfl⟩
  · next hdone =>
    cases h
    exact .inl ⟨Bool.eq_false_iff.2 hdone, rfl⟩

theorem fgStart_handlerContext {s r : State} (h : s.fgStart = some r) : r.handlerContext = s.handlerContext := by
  rcases fgStart_cases h with ⟨-, rfl⟩ | ⟨w, i, -, -, -, rfl⟩ <;> rfl

theorem fgStart_inForeground {s r : State} (hs : s.Inv) (h : s.fgStart = some r) : r.InForeground r.fgItems := by
  obtain ⟨hdata, -, -, hfg⟩ := (State.inv_iff s).1 hs
  rcases fgStart_cases h with ⟨-, rfl⟩ | ⟨w, i, -, -, -, rfl⟩
  · exact ⟨hdata, .inl hfg⟩
  · exact ⟨hdata, .inl (itemsOf_raisesGuarded s.cfg i)⟩

/-- The handler's shape and mask are clear of a foreground cycle: the handler is idle in it. -/
theorem foregroundCycle_inv {s r u : State} (hs : s.Inv) (hturn : s.FgTurn) (hr : s.fgStart = some r)
    (h : r.resumeFg = .next u) : u.tick.Inv := by
  have hkeeps := (resumeFg_keeps h).2.1.trans (fgStart_handlerContext hr)
  simp only [State.handlerContext, Prod.mk.injEq] at hkeeps
  obtain ⟨⟨hactive, hphase, -⟩, -, hitems, -⟩ := hkeeps
  rw [hturn.1] at hactive
  obtain ⟨hidle, -⟩ := ((State.inv_iff s).1 hs).2.2.1
  obtain ⟨v, rest, hadvance, rfl⟩ := resumeFg_eq_next h
  obtain ⟨hdata, hrest⟩ := (fgStart_inForeground hs hr).advance hadvance
  rw [State.inv_iff]
  refine ⟨?_, fun h => absurd (hactive.symm.trans h) nofun, ⟨fun _ => ⟨hphase.trans (hidle hturn.1).1,
    hitems.trans (hidle hturn.1).2⟩, fun h => absurd (hactive.symm.trans h) nofun⟩, ?_⟩
  · rw [complete_eq]
    exact hdata
  · rw [State.tick_fgItems, complete_fgItems]
    exact hrest

/-- Settles O19, by the context that takes the cycle. -/
theorem stepKeepsTheInvariant : Obligations.StepKeepsTheInvariant := by
  intro s t hs h
  rcases step_cases h with ⟨-, u, hu, rfl⟩ | ⟨hturn, r, u, hr, hu, rfl⟩ | ⟨-, -, rfl⟩
  · exact handlerCycle_inv hs hu
  · exact foregroundCycle_inv hs hturn hr hu
  · exact hs

end Sys2Proof.Machine
end

section
/-! The cycle step of 10_state.md: which context a step runs (R33), and what a step does to the inputs, the cycle number,
the edge detector and the stream position (R27, R31, R34, R38), whichever context takes it. -/

namespace Sys2Proof.Machine

/-! ### The context that takes the cycle -/

theorem step_of_active {s : State} (hwf : s.cfg.wf = true) (hactive : s.hActive = true) :
    step s = thenTick s.edgeDetect.advanceHandler := by
  rw [step_of_wf hwf, cycle, State.runContexts, State.edgeDetect_hActive, hactive, if_pos rfl]

theorem step_of_dispatch {s : State} (hwf : s.cfg.wf = true) (hidle : s.hActive = false)
    (hdispatch : s.edgeDetect.dispatchable = true) :
    step s = thenTick (s.edgeDetect.dispatch (rxItems s.cfg)).advanceHandler := by
  rw [step_of_wf hwf, cycle, State.runContexts, State.edgeDetect_hActive, hidle, if_neg nofun, hdispatch, if_pos rfl,
    State.edgeDetect_cfg]

theorem step_of_foreignCycle {s : State} (hwf : s.cfg.wf = true) (hidle : s.hActive = false)
    (hdispatch : s.edgeDetect.dispatchable = false) (hforeign : s.edgeDetect.foreignCycle = true) :
    step s = .next s.edgeDetect.tick := by
  rw [step_of_wf hwf, cycle, State.runContexts, State.edgeDetect_hActive, hidle, if_neg nofun, hdispatch, if_neg nofun,
    hforeign, if_pos rfl]
  rfl

theorem step_of_fgTurn {s : State} (hwf : s.cfg.wf = true) (hturn : s.FgTurn) :
    step s = thenTick s.edgeDetect.advanceFg := by
  obtain ⟨hidle, hdispatch, hforeign⟩ := hturn
  rw [step_of_wf hwf, cycle, State.runContexts, State.edgeDetect_hActive, hidle, if_neg nofun, hdispatch, if_neg nofun,
    hforeign, if_neg nofun]

theorem advanceFg_of_running {s : State} (h : s.fgItems.isDone = false) : s.advanceFg = s.resumeFg := by
  rw [State.advanceFg, h, if_neg nofun]

theorem advanceFg_of_fetch {s : State} {w : Word} {i : Instr} (hdone : s.fgItems = .done)
    (hword : s.stream[s.cp]? = some w) (hdecode : decode w = .instr i) : s.advanceFg = exec i s.takeCommand := by
  simp only [State.advanceFg, (Code.isDone_iff _).2 hdone, if_true, hword, State.runWord, hdecode]

theorem advanceFg_of_no_word {s : State} (hdone : s.fgItems = .done) (hword : s.stream[s.cp]? = none) :
    s.advanceFg = .next s := by
  simp only [State.advanceFg, (Code.isDone_iff _).2 hdone, if_true, hword]

/-- Settles O9, clause by clause. -/
theorem cycleBelongsToOneContext : Obligations.CycleBelongsToOneContext := by
  intro s hwf
  refine ⟨step_of_active hwf, step_of_dispatch hwf, step_of_foreignCycle hwf, fun hturn hrunning => ?_,
    fun hturn hdone hword => ?_⟩
  · rw [step_of_fgTurn hwf hturn, advanceFg_of_running (s := s.edgeDetect) hrunning]
  · rw [step_of_fgTurn hwf hturn, advanceFg_of_no_word (s := s.edgeDetect) hdone hword]
    rfl

/-- Settles O7: the foreground's turn, and the fetch of the word. -/
theorem stepRunsTheDecodedCommand : Obligations.StepRunsTheDecodedCommand := by
  intro s w i hwf hturn hdone hword hdecode
  rw [step_of_fgTurn hwf hturn, advanceFg_of_fetch (s := s.edgeDetect) hdone hword hdecode]
  rfl

/-! ### A line at the level seen: the placed word, and quiescence -/

/-- On a line that holds the level seen, edge detection changes nothing (R34). -/
theorem edgeDetect_of_rxNow_eq {s : State} (h : s.rxNow = s.rxPrev) : s.edgeDetect = s := by
  simp [State.edgeDetect, h]

/-- The word stands at `cp`, behind the words before it and the padding up to it. -/
theorem placeWord_getElem (s : State) (w : Word) : (placeWord s w).stream[s.cp]? = some w := by
  have hlength : (s.stream.take s.cp ++ List.replicate (s.cp - s.stream.length) 0).length = s.cp := by
    rw [List.length_append, List.length_take, List.length_replicate]
    omega
  show (s.stream.take s.cp ++ List.replicate (s.cp - s.stream.length) 0 ++ w :: s.stream.drop (s.cp + 1))[s.cp]? = some w
  rw [List.getElem?_append_right hlength.le, hlength, Nat.sub_self, List.getElem?_cons_zero]

/-- The line is at the level seen, so edge detection changes nothing. -/
theorem readyToFetch_edgeDetect (s : State) : (readyToFetch s).edgeDetect = readyToFetch s :=
  edgeDetect_of_rxNow_eq rfl

theorem readyToFetch_fgTurn (s : State) : (readyToFetch s).FgTurn := by
  rw [State.FgTurn, readyToFetch_edgeDetect]
  exact ⟨rfl, rfl, by simp [readyToFetch, State.foreignCycle]⟩

/-- Settles O8: the placed word is fetched by the next step, before which edge detection changes nothing. -/
theorem placedWordIsRunNext : Obligations.PlacedWordIsRunNext := by
  intro s w i hwf hdecode
  have hrun := stepRunsTheDecodedCommand (s.withFetchWord 32 w) (tableWord 32 w) i hwf (readyToFetch_fgTurn _) rfl
    (placeWord_getElem s _) (decode_of_decodeTableWord hdecode)
  rw [hrun, State.withFetchWord, readyToFetch_edgeDetect]
  rfl

/-- Settles O60: edge detection changes nothing, and no context has an item to run. -/
theorem quiescentBlockStaysQuiet : Obligations.QuiescentBlockStaysQuiet := by
  rintro s hwf ⟨hword, hdone, hidle, hdispatch⟩ hline
  have hedge := edgeDetect_of_rxNow_eq hline
  rw [← hedge] at hdispatch
  cases hforeign : s.edgeDetect.foreignCycle with
  | true =>
    rw [step_of_foreignCycle hwf hidle hdispatch hforeign, hedge]
    rfl
  | false =>
    rw [step_of_fgTurn hwf ⟨hidle, hdispatch, hforeign⟩, hedge, advanceFg_of_no_word hdone hword]
    rfl

/-! ### What no context writes -/

theorem tick_unacted {s t : State} (h : t.unacted = s.unacted) : t.tick.unacted = s.tick.unacted := by
  simp only [State.unacted, Prod.mk.injEq, State.tick_cfg, State.tick_line, State.tick_stream, State.tick_foreign,
    State.tick_now, State.tick_pending, State.tick_rxPrev, State.tick_cp, Nat.add_right_cancel_iff] at h ⊢
  exact h

/-- The cycle dispatches the handler (R33). -/
abbrev State.Dispatches (s : State) : Prop := s.hActive = false ∧ s.edgeDetect.dispatchable = true

/-- The cycle takes the word at `cp` (R33). -/
abbrev State.TakesWord (s : State) : Prop := s.FgTurn ∧ s.fgItems = .done ∧ s.cp < s.stream.length

theorem not_handlerTurn_of_fgTurn {s : State} (h : s.FgTurn) : ¬ s.HandlerTurn := by
  simp [State.HandlerTurn, h.1, h.2.1]

theorem not_takesWord_of_fgItems {s : State} (h : s.fgItems.isDone = false) : ¬ s.TakesWord := by
  rintro ⟨-, hdone, -⟩
  rw [hdone] at h
  cases h

/-- A step on the fields no action writes: the inputs stay and the cycle number moves on, the edge is detected and a
dispatch consumes it, and a fetch moves `cp` (R31, R33, R34). -/
theorem step_unacted {s t : State} (h : step s = .next t) :
    t.unacted = (s.cfg, s.line, s.stream, s.foreign, s.now + 1, if s.Dispatches then false else s.edgeDetect.pending,
      s.rxNow, if s.TakesWord then s.cp + 1 else s.cp) := by
  rcases step_cases h with ⟨hturn, u, hu, rfl⟩ | ⟨hturn, r, u, hr, hu, rfl⟩ | ⟨hturn, hnone, rfl⟩
  · have htakes : ¬ s.TakesWord := fun h => not_handlerTurn_of_fgTurn h.1 hturn
    rw [tick_unacted (advanceHandler_keeps hu).1, if_neg htakes]
    unfold State.handlerStart
    split
    · next hactive =>
      have hdispatch : ¬ s.Dispatches := fun h => absurd (hactive.symm.trans h.1) nofun
      rw [if_neg hdispatch]
      rfl
    · next hidle =>
      have hdispatch : s.Dispatches := ⟨Bool.eq_false_iff.2 hidle, hturn.resolve_left hidle⟩
      rw [if_pos hdispatch]
      rfl
  · have hdispatch : ¬ s.Dispatches := fun h => not_handlerTurn_of_fgTurn hturn (.inr h.2)
    rw [tick_unacted (resumeFg_keeps hu).1, if_neg hdispatch]
    rcases fgStart_cases hr with ⟨hrunning, rfl⟩ | ⟨w, i, hdone, hword, -, rfl⟩
    · rw [if_neg (not_takesWord_of_fgItems hrunning)]
      rfl
    · have htakes : s.TakesWord := ⟨hturn, hdone, (List.getElem?_eq_some_iff.1 hword).1⟩
      rw [if_pos htakes]
      rfl
  · have hdispatch : ¬ s.Dispatches := fun h => hturn (.inr h.2)
    have htakes : ¬ s.TakesWord := by
      rintro ⟨hfg, -, hlt⟩
      rcases hnone with hforeign | ⟨-, hword⟩
      · exact absurd (hfg.2.2.symm.trans hforeign) nofun
      · exact absurd (List.getElem?_eq_none_iff.1 hword) (by omega)
    rw [if_neg hdispatch, if_neg htakes]
    rfl

/-- Settles O11. -/
theorem onlyDispatchClearsPending : Obligations.OnlyDispatchClearsPending := by
  intro s t h
  have hstep := step_unacted h
  simp only [State.unacted, Prod.mk.injEq] at hstep
  obtain ⟨-, -, -, -, -, hpending, hprev, -⟩ := hstep
  exact ⟨hprev, fun hd => hpending.trans (if_pos hd), fun hd => hpending.trans (if_neg hd)⟩

/-- Settles O12. -/
theorem inputsNeverChange : Obligations.InputsNeverChange := by
  intro s t h
  have hstep := step_unacted h
  simp only [State.unacted, Prod.mk.injEq] at hstep
  obtain ⟨hcfg, hline, hstream, hforeign, hnow, -⟩ := hstep
  exact ⟨hcfg, hstream, hline, hforeign, hnow⟩

/-- Settles O13. -/
theorem streamPositionAdvancesByFetches : Obligations.StreamPositionAdvancesByFetches := by
  intro s t h
  have hstep := step_unacted h
  simp only [State.unacted, Prod.mk.injEq] at hstep
  obtain ⟨-, -, -, -, -, -, -, hcp⟩ := hstep
  exact ⟨fun hfetch => hcp.trans (if_pos hfetch), fun hfetch => hcp.trans (if_neg hfetch)⟩

/-- Settles O10: the two directions of change are the inequality of the levels, and the dispatch clears the bit it set. -/
theorem edgeDetectionLatchesChanges : Obligations.EdgeDetectionLatchesChanges := by
  refine fun s => ⟨?_, fun _ hidle hdispatch t h => (onlyDispatchClearsPending s t h).2.1 ⟨hidle, hdispatch⟩⟩
  have hlatch : (s.rxNow != s.rxPrev && (s.armed || s.cfg.pLatchDisarmed)) = true ↔
      s.rxNow ≠ s.rxPrev ∧ (s.armed = true ∨ s.cfg.pLatchDisarmed = true) := by simp
  unfold State.edgeDetect
  split
  · next hchange => rw [hlatch.2 hchange, Bool.or_true]
  · next hchange => rw [Bool.eq_false_iff.2 (mt hlatch.1 hchange), Bool.or_false]

/-- Settles O14: a foreground cycle keeps the handler's context, and a cycle that is nobody's keeps all of it. -/
theorem onlyTheHandlerReceives : Obligations.OnlyTheHandlerReceives := by
  intro s t h hturn
  rcases step_cases h with ⟨hhandler, -⟩ | ⟨-, r, u, hr, hu, rfl⟩ | ⟨-, -, rfl⟩
  · exact absurd hhandler hturn
  · obtain ⟨-, hcontext, htail, hovf⟩ := resumeFg_keeps hu
    have hkept := hcontext.trans (fgStart_handlerContext hr)
    have hstart : r.tail = s.tail ∧ r.ovf = s.ovf := by
      rcases fgStart_cases hr with ⟨-, rfl⟩ | ⟨w, i, -, -, -, rfl⟩ <;> exact ⟨rfl, rfl⟩
    rw [hstart.1] at htail
    rw [hstart.2] at hovf
    simp only [State.handlerContext, Prod.mk.injEq] at hkept
    obtain ⟨⟨hactive, hphase, hacc, hsaved⟩, hlvl, hitems, hbuf⟩ := hkept
    exact ⟨⟨hactive, hphase, hacc, hsaved, hlvl, hitems⟩, fun a => congrArg (Memory.read · a) hbuf, htail, hovf⟩
  · exact ⟨⟨rfl, rfl, rfl, rfl, rfl, rfl⟩, fun _ => rfl, .inl rfl, id⟩

end Sys2Proof.Machine
end

section
/-! A command no other context preempts (10_state.md R33, 00_scope.md R12): the foreground's actions do not read the cycle
number and the edge detector, so a step in the foreground's turn does what the command's cycle alone does. -/

namespace Sys2Proof.Machine

/-! ### The cycle number and the edge detector do not matter to a command -/

/-- The state at another cycle, with another edge detector. -/
def State.withClock (s : State) (now : Nat) (pending rxPrev : Bit) : State :=
  { s with now := now, pending := pending, rxPrev := rxPrev }

section
variable {s t : State} (now : Nat) (pending rxPrev : Bit)

theorem respondPop_withClock (h : s.respondPop = .ok t) :
    (s.withClock now pending rxPrev).respondPop = .ok (t.withClock now pending rxPrev) := by
  rcases respondPop_cases h with ⟨hempty, rfl⟩ | ⟨hempty, hhead, rfl⟩
  · have hempty' : (s.withClock now pending rxPrev).isEmpty = true := hempty
    simp only [State.respondPop, State.pop, hempty', if_true]
    rfl
  · have hempty' : (s.withClock now pending rxPrev).isEmpty = false := hempty
    have hhead' : (s.withClock now pending rxPrev).head.toNat < (s.withClock now pending rxPrev).cfg.c := hhead
    simp only [State.respondPop, State.pop, State.readSlot, hempty', Bool.false_eq_true, if_false, hhead', if_true]
    rfl

theorem respondPeek_withClock (h : s.respondPeek = .ok t) :
    (s.withClock now pending rxPrev).respondPeek = .ok (t.withClock now pending rxPrev) := by
  rcases respondPeek_cases h with ⟨hempty, rfl⟩ | ⟨hempty, hhead, rfl⟩
  · have hempty' : (s.withClock now pending rxPrev).isEmpty = true := hempty
    simp only [State.respondPeek, State.peekFront, hempty', if_true]
    rfl
  · have hempty' : (s.withClock now pending rxPrev).isEmpty = false := hempty
    have hhead' : (s.withClock now pending rxPrev).head.toNat < (s.withClock now pending rxPrev).cfg.c := hhead
    simp only [State.respondPeek, State.peekFront, State.readSlot, hempty', Bool.false_eq_true, if_false, hhead', if_true]
    rfl

theorem runFgAct_withClock {a : FgAct} (h : runFgAct a s = .ok t) :
    runFgAct a (s.withClock now pending rxPrev) = .ok (t.withClock now pending rxPrev) := by
  cases a with
  | install baud =>
    cases h
    simp only [runFgAct, beginSession_eq, State.enterCritical, State.leaveCritical, State.withClock]
    cases lookupRow s.cfg.calTable baud <;> rfl
  | respondPop => exact respondPop_withClock now pending rxPrev h
  | respondPeek => exact respondPeek_withClock now pending rxPrev h
  | enableInterrupts => cases h; rfl
  | disableInterrupts => cases h; rfl
  | disarm => cases h; rfl
  | resetIndices => cases h; rfl
  | respondCount => cases h; rfl
  | readOverflow => cases h; rfl
  | clearOverflow => cases h; rfl
  | startBit => cases h; rfl
  | dataBit level => cases h; rfl
  | stopBit => cases h; rfl
  | respond value => cases h; rfl

theorem fgHolds_withClock (c : FgTest) (s : State) : fgHolds c (s.withClock now pending rxPrev) = fgHolds c s := by
  cases c <;> rfl

theorem delayCycles_withClock (d : TickSource) (s : State) :
    (s.withClock now pending rxPrev).delayCycles d = s.delayCycles d := by
  cases d <;> rfl

theorem advance_withClock {code rest : FgCode} (h : advance runFgAct fgHolds code s = .ok (t, rest)) :
    advance runFgAct fgHolds code (s.withClock now pending rxPrev) = .ok (t.withClock now pending rxPrev, rest) := by
  induction code generalizing s with
  | done => cases h; rfl
  | wait n k ih =>
    cases n with
    | zero => exact ih h
    | succ n => cases h; rfl
  | delay d k ih =>
    rw [advance_delay] at h ⊢
    rw [delayCycles_withClock]
    cases hn : s.delayCycles d with
    | zero => rw [hn] at h; exact ih h
    | succ n => rw [hn] at h; cases h; rfl
  | act a k ih =>
    cases ha : runFgAct a s with
    | error f => rw [advance_act_error k ha] at h; cases h
    | ok u =>
      rw [advance_act k ha] at h
      rw [advance_act k (runFgAct_withClock now pending rxPrev ha)]
      exact ih h
  | test c yes no ihy ihn =>
    rw [advance_test] at h ⊢
    rw [fgHolds_withClock]
    cases hc : fgHolds c s with
    | true => rw [hc] at h; exact ihy h
    | false => rw [hc] at h; exact ihn h
  | raise f => cases h

theorem complete_withClock (s : State) :
    (s.withClock now pending rxPrev).complete = s.complete.withClock now pending rxPrev := by
  cases hdone : s.fgItems.isDone with
  | false =>
    rw [complete_of_running hdone, complete_of_running (s := s.withClock now pending rxPrev) hdone]
  | true =>
    have hcode := (Code.isDone_iff _).1 hdone
    cases hresponse : s.response with
    | none =>
      rw [complete_of_none hresponse, complete_of_none (s := s.withClock now pending rxPrev) hresponse]
    | some v =>
      rw [complete_of_response hcode hresponse,
        complete_of_response (s := s.withClock now pending rxPrev) hcode hresponse]
      rfl

theorem resumeFg_withClock (h : s.resumeFg = .next t) :
    (s.withClock now pending rxPrev).resumeFg = .next (t.withClock now pending rxPrev) := by
  obtain ⟨u, rest, hadvance, rfl⟩ := resumeFg_eq_next h
  have hclock := advance_withClock now pending rxPrev hadvance
  unfold State.resumeFg
  rw [show (s.withClock now pending rxPrev).fgItems = s.fgItems from rfl, hclock]
  exact congrArg _ (complete_withClock now pending rxPrev { u with fgItems := rest })

theorem exec_withClock {i : Instr} (h : exec i s = .next t) :
    exec i (s.withClock now pending rxPrev) = .next (t.withClock now pending rxPrev) := by
  rw [exec_eq_startCommand] at h ⊢
  exact resumeFg_withClock now pending rxPrev h

/-- A step in the foreground's turn runs the command in progress as its cycle alone does. -/
theorem step_withClock (hwf : s.cfg.wf = true) (hturn : (s.withClock now pending rxPrev).FgTurn)
    (hrunning : s.fgItems.isDone = false) (h : s.resumeFg = .next t) :
    step (s.withClock now pending rxPrev) = .next (t.withClock (now + 1)
      (s.withClock now pending rxPrev).edgeDetect.pending (s.withClock now pending rxPrev).rxNow) := by
  rw [step_of_fgTurn (s := s.withClock now pending rxPrev) hwf hturn,
    advanceFg_of_running (s := (s.withClock now pending rxPrev).edgeDetect) hrunning]
  exact congrArg thenTick (resumeFg_withClock now (s.withClock now pending rxPrev).edgeDetect.pending
    (s.withClock now pending rxPrev).rxNow h)

end

/-! ### A command's cycles, counted from its fetch -/

theorem fgCycles_succ_next {n : Nat} {s u : State} (h : State.fgCycles (n + 1) s = .next u) :
    ∃ v, State.fgCycles n s = .next v ∧ v.resumeFg = .next u := by
  induction n generalizing s with
  | zero =>
    refine ⟨s, rfl, ?_⟩
    rw [State.fgCycles] at h
    cases hs : s.resumeFg with
    | next t => rw [hs] at h; exact h
    | fault f => rw [hs] at h; cases h
    | refused r => rw [hs] at h; cases h
  | succ n ih =>
    rw [State.fgCycles] at h ⊢
    cases hs : s.resumeFg with
    | next t => rw [hs] at h; exact ih h
    | fault f => rw [hs] at h; cases h
    | refused r => rw [hs] at h; cases h

theorem runCommand_succ_next {i : Instr} {n : Nat} {s u : State} (h : s.runCommand i (n + 1) = .next u) :
    ∃ v, s.runCommand i n = .next v ∧ v.resumeFg = .next u := by
  rw [runCommand_eq_fgCycles] at h ⊢
  exact fgCycles_succ_next h

theorem runSteps_succ_of_next {n : Nat} {s t u : State} (h : runSteps n s = .next t) (hstep : step t = .next u) :
    runSteps (n + 1) s = .next u := by
  induction n generalizing s with
  | zero => cases h; rw [runSteps, hstep]; rfl
  | succ n ih =>
    rw [runSteps] at h ⊢
    cases hs : step s with
    | next v => rw [hs] at h; exact ih h
    | fault f => rw [hs] at h; cases h
    | refused r => rw [hs] at h; cases h

/-- A command alone keeps the inputs and the handler's context. -/
theorem runCommand_keeps_contexts {i : Instr} {n : Nat} {s v : State} (h : s.runCommand i n = .next v) :
    v.unacted = s.unacted ∧ v.handlerContext = s.handlerContext := by
  induction n generalizing v with
  | zero =>
    obtain ⟨u, hexec, hu⟩ := exec_next_of_runCommand h
    cases hu
    rw [exec_eq_startCommand] at hexec
    obtain ⟨hunacted, hcontext, -⟩ := resumeFg_keeps hexec
    exact ⟨hunacted, hcontext⟩
  | succ n ih =>
    obtain ⟨u, hu, hv⟩ := runCommand_succ_next h
    obtain ⟨hunacted, hcontext, -⟩ := resumeFg_keeps hv
    exact ⟨hunacted.trans (ih hu).1, hcontext.trans (ih hu).2⟩

/-! ### A command that no other context preempts -/

theorem State.QuietFor.mono {s : State} {m n : Nat} (h : s.QuietFor n) (hmn : m ≤ n) : s.QuietFor m :=
  ⟨h.1, h.2.1, fun t hfrom hto => h.2.2 t hfrom (by omega)⟩

/-- On a quiet line, the level in a cycle of the quiet window is the one the edge detector has seen. -/
theorem State.QuietFor.rxNow {s t : State} {k n : Nat} (h : s.QuietFor n) (hk : k < n) (hline : t.line = s.line)
    (hnow : t.now = s.now + k) : t.rxNow = s.rxPrev := by
  obtain ⟨-, ⟨changes, hwave⟩, hlevel⟩ := h
  rw [← hlevel (s.now + k) (by omega) (by omega)]
  simp only [State.rxNow, State.rxAt, hline, hwave, hnow]

/-- Edge detection on a quiet line finds nothing pending and sees the same level. -/
theorem State.QuietFor.edgeDetect {s t : State} {k n : Nat} (h : s.QuietFor n) (hk : k < n) (hline : t.line = s.line)
    (hnow : t.now = s.now + k) (hpending : t.pending = false) (hprev : t.rxPrev = s.rxPrev) :
    t.edgeDetect.pending = false ∧ t.rxNow = s.rxPrev := by
  have hrx := h.rxNow hk hline hnow
  rw [edgeDetect_of_rxNow_eq (hrx.trans hprev.symm)]
  exact ⟨hpending, hrx⟩

/-- In the cycle after the command reaches `v` in its cycle `m`, nothing preempts it: interrupts are masked, or there is no
foreign cycle, and the receiver is disarmed or the line quiet since the fetch in `s`. -/
abbrev State.Undisturbed (s : State) (m : Nat) (v : State) : Prop :=
  v.gie = false ∨ (s.cfg.extIrq = false ∧ (v.armed = false ∨ s.QuietFor (m + 2)))

theorem State.Undisturbed.fgTurn {s v : State} {m : Nat} {pending rxPrev : Bit} (h : s.Undisturbed m v)
    (hidle : v.hActive = false) (hcfg : v.cfg = s.cfg) (hline : v.line = s.line)
    (hquiet : s.QuietFor (m + 1) → pending = false ∧ rxPrev = s.rxPrev) :
    (v.withClock (s.now + (m + 1)) pending rxPrev).FgTurn := by
  refine ⟨hidle, ?_, ?_⟩
  · show ((v.withClock _ _ _).edgeDetect.pending && v.armed && v.gie) = false
    rcases h with hgie | ⟨-, harmed | hline'⟩
    · rw [hgie, Bool.and_false]
    · rw [harmed, Bool.and_false, Bool.false_and]
    · obtain ⟨hpending, hprev⟩ := hquiet (hline'.mono (by omega))
      have hedge := hline'.edgeDetect (t := v.withClock (s.now + (m + 1)) pending rxPrev) (k := m + 1) (by omega) hline
        rfl hpending hprev
      rw [hedge.1, Bool.false_and, Bool.false_and]
  · show (v.cfg.extIrq && v.gie && _) = false
    rcases h with hgie | ⟨hext, -⟩
    · rw [hgie, Bool.and_false, Bool.false_and]
    · rw [hcfg, hext, Bool.false_and, Bool.false_and]

/-- An undisturbed command, cycle by cycle: the machine is where the command alone is, at its own cycle number. -/
theorem runSteps_of_undisturbed {s u : State} {i : Instr} {n : Nat} (hwf : s.cfg.wf = true) (hfetch : s.Fetches i)
    (hrun : s.takeCommand.runCommand i n = .next u)
    (hcycles : ∀ m v, m < n → s.takeCommand.runCommand i m = .next v →
      v.fgItems.isDone = false ∧ s.Undisturbed m v) :
    ∃ pending rxPrev, runSteps (n + 1) s = .next (u.withClock (s.now + (n + 1)) pending rxPrev) ∧
      (s.QuietFor (n + 1) → pending = false ∧ rxPrev = s.rxPrev) := by
  induction n generalizing u with
  | zero =>
    obtain ⟨v, hexec, hv⟩ := exec_next_of_runCommand hrun
    cases hv
    obtain ⟨hturn, hdone, w, hword, hdecode⟩ := hfetch
    refine ⟨s.edgeDetect.pending, s.rxNow, ?_, fun hquiet => hquiet.edgeDetect (k := 0) (by omega) rfl rfl hquiet.1 rfl⟩
    refine runSteps_succ_of_next (t := s) rfl ?_
    rw [stepRunsTheDecodedCommand s w i hwf hturn hdone hword hdecode]
    exact congrArg thenTick (exec_withClock s.now s.edgeDetect.pending s.rxNow hexec)
  | succ n ih =>
    obtain ⟨v, hv, hresume⟩ := runCommand_succ_next hrun
    obtain ⟨pending, rxPrev, hsteps, hquiet⟩ := ih hv fun m w hm => hcycles m w (by omega)
    obtain ⟨hrunning, hundisturbed⟩ := hcycles n v (by omega) hv
    obtain ⟨hunacted, hcontext⟩ := runCommand_keeps_contexts hv
    simp only [State.unacted, State.handlerContext, Prod.mk.injEq] at hunacted hcontext
    obtain ⟨hcfg, hline, -⟩ := hunacted
    have hidle : v.hActive = false := hcontext.1.1.trans hfetch.1.1
    have hturn := hundisturbed.fgTurn hidle hcfg hline hquiet
    refine ⟨_, _, runSteps_succ_of_next hsteps
      (step_withClock _ pending rxPrev (by rw [hcfg]; exact hwf) hturn hrunning hresume), fun hquiet' => ?_⟩
    obtain ⟨hpending, hprev⟩ := hquiet (hquiet'.mono (by omega))
    exact hquiet'.edgeDetect (k := n + 1) (by omega) hline rfl hpending hprev

end Sys2Proof.Machine
end

section
/-! WRITE's frame alone (44_transmit.md R111, R112), slot by slot, and its blind window on the machine (R114). -/

namespace Sys2Proof.Machine

/-! ### WRITE's list, slot by slot -/

/-- WRITE in its frame, driving `level`: interrupts masked, with `gie` saved (R111). -/
def State.driving (s : State) (level : Bit) : State :=
  { s with tx := level, gie := false, sGie := s.gie, response := none }

/-- WRITE's list after the action that opens slot `j`, for `j` in 0..8 (R111). -/
def slotItems (p : Params) (b : Byte) (j : Nat) : FgCode :=
  .delay (if j = 0 then .startBit else .txDelay) (dataBitItems p b (bitIndices.drop j))

/-- The wait of slot `j`'s list after its delay (R112). -/
def slotWait (p : Params) (b : Byte) (j : Nat) : Nat := if j < 8 then p.txBit (b.getLsbD j) else p.txStop

theorem slotStart_succ (s : State) (b : Byte) (j : Nat) :
    s.slotStart b (j + 1) =
      s.slotStart b j + (s.delayCycles (if j = 0 then .startBit else .txDelay) + slotWait s.cfg b j) := by
  rw [State.slotStart, State.slotLength, slotWait]
  by_cases h0 : j = 0
  · subst h0; rfl
  · rw [if_neg h0, if_neg h0]
    split <;> rfl

/-- The fetch does not move the slots. -/
theorem takeCommand_slotStart (s : State) (b : Byte) (j : Nat) : s.takeCommand.slotStart b j = s.slotStart b j := by
  induction j with
  | zero => rfl
  | succ j ih =>
    have hdelay : ∀ d, s.takeCommand.delayCycles d = s.delayCycles d := fun d => by cases d <;> rfl
    rw [slotStart_succ, slotStart_succ, ih, hdelay, State.takeCommand_cfg]

theorem driving_delayCycles (s : State) (level : Bit) (d : TickSource) :
    (s.driving level).delayCycles d = s.delayCycles d := by
  cases d <;> rfl

/-- The data bits from bit `j` on begin with the wait of slot `j` and the action that opens slot `j + 1`. -/
theorem dataBitItems_drop (p : Params) (b : Byte) {j : Nat} (hj : j < 8) :
    dataBitItems p b (bitIndices.drop j) =
      .wait (slotWait p b j) (.act (.dataBit (frameLevel b (j + 1))) (slotItems p b (j + 1))) := by
  have hdrop : bitIndices.drop j = ⟨j, hj⟩ :: bitIndices.drop (j + 1) := by
    have hall : ∀ i : Fin 8, bitIndices.drop i.val = i :: bitIndices.drop (i.val + 1) := by decide
    exact hall ⟨j, hj⟩
  have hlevel : frameLevel b (j + 1) = b.getLsbD j := by
    rw [frameLevel, if_neg (by omega), if_pos (by omega), Nat.add_sub_cancel]
  rw [hdrop, hlevel, slotItems, slotWait, if_pos hj, if_neg (by omega)]
  rfl

/-- A slot's list, from its opening action to the next slot's: a delay, a wait, and that action. -/
theorem slotItems_eq (p : Params) (b : Byte) {j : Nat} (hj : j ≤ 8) :
    ∃ a rest, slotItems p b j =
      .delay (if j = 0 then .startBit else .txDelay) (.wait (slotWait p b j) (.act a rest)) := by
  rw [slotItems]
  by_cases h8 : j = 8
  · subst h8
    exact ⟨_, _, rfl⟩
  · rw [dataBitItems_drop p b (by omega)]
    exact ⟨_, _, rfl⟩

/-! ### A slot's cycles -/

/-- While a slot lasts, WRITE keeps its level and does not complete. -/
theorem fgFrom_during_slot {s : State} {b : Byte} {j n : Nat} {level : Bit} (hj : j ≤ 8)
    (hn : s.slotStart b j + n < s.slotStart b (j + 1)) :
    ∃ code, fgFrom (slotItems s.cfg b j) (s.driving level) n = .next { s.driving level with fgItems := code } ∧
      code.isDone = false := by
  rw [slotStart_succ] at hn
  obtain ⟨a, rest, hitems⟩ := slotItems_eq s.cfg b hj
  rw [hitems, fgFrom_delay, driving_delayCycles]
  by_cases hdelay : n < s.delayCycles (if j = 0 then .startBit else .txDelay)
  · exact fgFrom_during_wait hdelay rfl rfl
  · rw [fgFrom_wait, if_neg hdelay]
    exact fgFrom_during_wait (by omega) rfl rfl

/-- At the end of slot `j`, the next slot's level is driven. -/
theorem fgFrom_slot_end {s : State} {b : Byte} {j : Nat} {level : Bit} (hj : j < 8) (n : Nat) :
    fgFrom (slotItems s.cfg b j) (s.driving level)
        (s.delayCycles (if j = 0 then .startBit else .txDelay) + slotWait s.cfg b j + n) =
      fgFrom (slotItems s.cfg b (j + 1)) (s.driving (frameLevel b (j + 1))) n := by
  rw [slotItems, dataBitItems_drop s.cfg b hj, fgFrom_delay, driving_delayCycles, fgFrom_wait, if_neg (by omega),
    fgFrom_wait, if_neg (by omega), fgFrom_act (t := s.driving (frameLevel b (j + 1))) _ _ rfl]
  congr 1
  omega

/-- WRITE's frame opens slot `j` at the cycle R112 gives it. -/
theorem fgFrom_slotStart (s : State) (b : Byte) {j : Nat} (hj : j ≤ 8) (n : Nat) :
    fgFrom (slotItems s.cfg b 0) (s.driving false) (s.slotStart b j + n) =
      fgFrom (slotItems s.cfg b j) (s.driving (frameLevel b j)) n := by
  induction j generalizing n with
  | zero => rw [State.slotStart, Nat.zero_add]; rfl
  | succ j ih => rw [slotStart_succ, Nat.add_assoc, ih (by omega), fgFrom_slot_end (by omega)]

/-- A configured WRITE whose start count fits opens slot 0 after `CALL_PRE` cycles (R111). -/
theorem runCommand_write_eq_fgFrom {s : State} (b : Byte) (hconfigured : s.txDelay ≠ 0)
    (hfits : s.txDelay.toNat + s.cfg.startAdj ≤ 65535) (n : Nat) :
    s.runCommand (.write b) (s.cfg.callPre + n) = fgFrom (slotItems s.cfg b 0) (s.driving false) n := by
  have hunconfigured : fgHolds .unconfigured { s with response := none } = false := by
    show (!decide (s.txDelay ≠ 0)) = false
    rw [decide_eq_true hconfigured, Bool.not_true]
  have htooLong : fgHolds .startTooLong { s with response := none } = false := by
    show decide (s.txDelay.toNat + s.cfg.startAdj > Config.maxTicks) = false
    exact decide_eq_false (Nat.not_lt_of_le hfits)
  rw [runCommand_eq_fgFrom, itemsOf, itemsWrite, fgFrom_wait, if_neg (by omega), fgFrom_test, hunconfigured,
    if_neg nofun, fgFrom_test, htooLong, if_neg nofun, fgFrom_act (t := s.driving false) _ _ rfl, Nat.add_sub_cancel_left]
  rfl

/-- A configured WRITE alone in slot `j` of its frame (R112, R114). -/
theorem runCommand_write_in_slot {s : State} {b : Byte} {j n : Nat} (hconfigured : s.txDelay ≠ 0)
    (hfits : s.txDelay.toNat + s.cfg.startAdj ≤ 65535) (hj : j < 9) (hfrom : s.slotStart b j ≤ n)
    (hto : n < s.slotStart b (j + 1)) :
    ∃ code, s.runCommand (.write b) (s.cfg.callPre + n) =
        .next { s.driving (frameLevel b j) with fgItems := code } ∧ code.isDone = false := by
  obtain ⟨k, rfl⟩ := Nat.exists_eq_add_of_le hfrom
  rw [runCommand_write_eq_fgFrom b hconfigured hfits, fgFrom_slotStart s b (by omega)]
  exact fgFrom_during_slot (by omega) hto

/-- Every cycle before slot `k` is in a slot before it. -/
theorem exists_slot {s : State} {b : Byte} {n k : Nat} (h : n < s.slotStart b k) :
    ∃ j, j < k ∧ s.slotStart b j ≤ n ∧ n < s.slotStart b (j + 1) := by
  induction k with
  | zero => exact absurd h (Nat.not_lt_zero n)
  | succ k ih =>
    by_cases hk : n < s.slotStart b k
    · obtain ⟨j, hj, hslot⟩ := ih hk
      exact ⟨j, by omega, hslot⟩
    · exact ⟨k, by omega, by omega, h⟩

/-! ### The blind window on the machine -/

/-- A configured WRITE on the machine, alone from its fetch, in slot `j` of its frame. -/
theorem takeCommand_write_in_slot {s : State} {b : Byte} {j n : Nat} (hconfigured : s.txDelay ≠ 0)
    (hfits : s.txDelay.toNat + s.cfg.startAdj ≤ 65535) (hj : j < 9) (hfrom : s.slotStart b j ≤ n)
    (hto : n < s.slotStart b (j + 1)) :
    ∃ code, s.takeCommand.runCommand (.write b) (s.cfg.callPre + n) =
        .next { s.takeCommand.driving (frameLevel b j) with fgItems := code } ∧ code.isDone = false := by
  rw [← takeCommand_slotStart] at hfrom hto
  exact runCommand_write_in_slot (s := s.takeCommand) hconfigured hfits hj hfrom hto

/-- Up to slot `j` a WRITE is undisturbed: before its start bit as the state it was fetched in is, and from the start bit on
because `gie` is 0 (R114). -/
theorem write_undisturbed {s v : State} {b : Byte} {j m n : Nat} (hconfigured : s.txDelay ≠ 0)
    (hfits : s.txDelay.toNat + s.cfg.startAdj ≤ 65535)
    (hbefore : s.cfg.callPre = 0 ∨ s.gie = false ∨
      (s.cfg.extIrq = false ∧ (s.armed = false ∨ s.QuietFor (s.cfg.callPre + 1))))
    (hj : j < 9) (hto : n < s.slotStart b (j + 1)) (hm : m < s.cfg.callPre + n)
    (hrun : s.takeCommand.runCommand (.write b) m = .next v) :
    v.fgItems.isDone = false ∧ s.Undisturbed m v := by
  by_cases hpre : m < s.cfg.callPre
  · obtain ⟨t, ht, heq, hrunning⟩ :=
      noEffectBeforeTheFirstAction (.write b) s.takeCommand m nofun nofun nofun hpre
    obtain rfl : t = v := Host.Outcome.next.inj (ht.symm.trans hrun)
    refine ⟨hrunning, ?_⟩
    rw [heq]
    rcases hbefore with h0 | hgie | ⟨hext, harmed | hquiet⟩
    · omega
    · exact .inl hgie
    · exact .inr ⟨hext, .inl harmed⟩
    · exact .inr ⟨hext, .inr (hquiet.mono (by omega))⟩
  · obtain ⟨k, rfl⟩ := Nat.exists_eq_add_of_le (Nat.le_of_not_lt hpre)
    obtain ⟨i, hi, hfrom, hto⟩ := exists_slot (s := s) (b := b) (n := k) (k := j + 1) (by omega)
    obtain ⟨code, hcode, hrunning⟩ := takeCommand_write_in_slot hconfigured hfits (by omega) hfrom hto
    obtain rfl := Host.Outcome.next.inj (hcode.symm.trans hrun)
    exact ⟨hrunning, .inl rfl⟩

/-- Settles O50: an undisturbed command runs as alone, and a configured WRITE is undisturbed to the end of its frame. -/
theorem unpreemptedCommandRunsAsAlone : Obligations.UnpreemptedCommandRunsAsAlone := by
  constructor
  · intro s u i n hwf hfetch hrun hcycles
    obtain ⟨pending, rxPrev, hsteps, hquiet⟩ := runSteps_of_undisturbed hwf hfetch hrun hcycles
    exact ⟨_, hsteps, rfl, hquiet⟩
  · intro s b j n hwf hfetch hconfigured hfits hbefore hj hfrom hto
    obtain ⟨code, hrun, -⟩ := takeCommand_write_in_slot hconfigured hfits hj hfrom hto
    obtain ⟨pending, rxPrev, hsteps, -⟩ := runSteps_of_undisturbed hwf hfetch hrun fun m v hm =>
      write_undisturbed hconfigured hfits hbefore hj hto hm
    exact ⟨_, hsteps, hfetch.1.1, rfl, rfl⟩

end Sys2Proof.Machine
end

section
/-! The slot memory and the serialised words of 20_memory.md: a slot written reads back and canonical memories are told
apart by their slots (R42), words are little-endian (R49), and an access outside the buffer stops (R51). -/

namespace Sys2Proof

/-! ### Little-endian words -/

theorem extractByte_eq_ofNat {n : Nat} (w : BitVec n) (k : Nat) :
    w.extractLsb' k 8 = BitVec.ofNat 8 (w.toNat / 2 ^ k) := by
  rw [BitVec.extractLsb', Nat.shiftRight_eq_div_pow]

theorem bytesOfWord_eq_ofNat (w : Word) :
    bytesOfWord w = [BitVec.ofNat 8 w.toNat, BitVec.ofNat 8 (w.toNat / 2 ^ 8), BitVec.ofNat 8 (w.toNat / 2 ^ 16),
      BitVec.ofNat 8 (w.toNat / 2 ^ 24)] := by
  simp only [bytesOfWord, extractByte_eq_ofNat, pow_zero, Nat.div_one]

theorem bytesOfResponse_eq_ofNat (r : Response) :
    bytesOfResponse r = [BitVec.ofNat 8 r.toNat, BitVec.ofNat 8 (r.toNat / 2 ^ 8)] := by
  simp only [bytesOfResponse, extractByte_eq_ofNat, pow_zero, Nat.div_one]

/-- Settles O5: the decoder on a word's bytes is the decoder on the word, and a response's bytes join to it. -/
theorem bytesDecodeLittleEndian : Obligations.BytesDecodeLittleEndian := by
  refine ⟨fun w rest => ⟨bytesOfWord_eq_ofNat w, fun i h => ?_, fun h => ?_⟩,
    fun r => ⟨bytesOfResponse_eq_ofNat r, fun b0 b1 h => ?_⟩⟩
  · rw [decodeBytes_bytesOfWord, h]
  · rw [decodeBytes_bytesOfWord, h]
  · cases h
    exact responseOfBytes_bytesOfResponse r

namespace Machine

/-! ### The slots of a canonical memory -/

/-- What a canonical memory reads after a write (R42). -/
theorem Memory.read_write {m : Memory} (hwf : m.wf = true) (a : Nat) (v : Byte) (b : Nat) :
    (m.write a v).read b = if b = a then v else m.read b := by
  induction m with
  | nil =>
    simp only [Memory.write]
    split
    · next hv => simp [hv]
    · rfl
  | cons entry rest ih =>
    obtain ⟨c, w⟩ := entry
    obtain ⟨-, habove, hrest⟩ := (Memory.wf_cons c w rest).1 hwf
    simp only [Memory.write]
    split
    · next hlt =>
      split
      · next hv =>
        have hunlisted : Memory.read ((c, w) :: rest) a = v :=
          (Memory.read_of_above hwf ((Memory.above_cons a c w rest).2 hlt) le_rfl).trans hv.symm
        split
        · next hb => rw [hb, hunlisted]
        · rfl
      · rfl
    · split
      · next hac =>
        subst hac
        split
        · next hv =>
          have hunlisted : Memory.read rest a = v := (Memory.read_of_above hrest habove le_rfl).trans hv.symm
          by_cases hb : b = a <;> simp [hb, hunlisted]
        · by_cases hb : b = a <;> simp [hb]
      · next hne =>
        rw [Memory.read_cons, Memory.read_cons, ih hrest]
        by_cases hbc : b = c
        · rw [if_pos hbc, if_pos hbc, if_neg (hbc ▸ Ne.symm hne)]
        · rw [if_neg hbc, if_neg hbc]

/-- Settles O24. -/
theorem slotWriteReadsBack : Obligations.SlotWriteReadsBack := fun _ a v hwf =>
  ⟨(Memory.read_write hwf a v a).trans (if_pos rfl), fun b hb => (Memory.read_write hwf a v b).trans (if_neg hb)⟩

/-- A canonical memory reads its first slot otherwise than one whose slots all lie above that slot. -/
theorem Memory.read_first_ne {m n : Memory} {a : Nat} {v : Byte} (hm : Memory.wf ((a, v) :: m) = true)
    (hn : n.wf = true) (h : n.above a = true) : Memory.read ((a, v) :: m) a ≠ n.read a := by
  rw [Memory.read_cons, if_pos rfl, Memory.read_of_above hn h le_rfl]
  exact ((Memory.wf_cons a v m).1 hm).1

/-- Memories with the same first slot that read the same have tails that read the same. -/
theorem Memory.read_tail_eq {m n : Memory} {a : Nat} {v w : Byte} (hm : Memory.wf ((a, v) :: m) = true)
    (hn : Memory.wf ((a, w) :: n) = true) (h : ∀ b, Memory.read ((a, v) :: m) b = Memory.read ((a, w) :: n) b)
    (b : Nat) : m.read b = n.read b := by
  obtain ⟨-, hmabove, hm⟩ := (Memory.wf_cons a v m).1 hm
  obtain ⟨-, hnabove, hn⟩ := (Memory.wf_cons a w n).1 hn
  by_cases hb : b = a
  · rw [hb, Memory.read_of_above hm hmabove le_rfl, Memory.read_of_above hn hnabove le_rfl]
  · simpa [hb] using h b

/-- Settles O25, by induction on one memory: the first slots of the two are equal, for the lower one would be read
otherwise by the other memory, and so are the bytes in them. -/
theorem equalSlotsAreEqualMemories : Obligations.EqualSlotsAreEqualMemories := by
  intro m
  induction m with
  | nil =>
    intro n _ hn h
    cases n with
    | nil => rfl
    | cons entry n => exact absurd (h entry.1).symm (Memory.read_first_ne hn rfl rfl)
  | cons entry m ih =>
    intro n hm hn h
    obtain ⟨a, v⟩ := entry
    cases n with
    | nil => exact absurd (h a) (Memory.read_first_ne hm rfl rfl)
    | cons entry' n =>
      obtain ⟨b, w⟩ := entry'
      rcases lt_trichotomy a b with hlt | rfl | hlt
      · exact absurd (h a) (Memory.read_first_ne hm hn ((Memory.above_cons a b w n).2 hlt))
      · have hv : v = w := by simpa using h a
        have htail := ih n ((Memory.wf_cons a v m).1 hm).2.2 ((Memory.wf_cons a w n).1 hn).2.2
          (Memory.read_tail_eq hm hn h)
        rw [hv, htail]
      · exact absurd (h b).symm (Memory.read_first_ne hn hm ((Memory.above_cons b a v m).2 hlt))

/-! ### Slots outside the buffer -/

section
variable {s : State}

theorem readSlot_of_outside {i : Byte} (h : s.cfg.c ≤ i.toNat) : s.readSlot i = .error .slotRange :=
  if_neg h.not_gt

theorem writeSlot_of_outside {i : Byte} (h : s.cfg.c ≤ i.toNat) (v : Byte) : s.writeSlot i v = .error .slotRange :=
  if_neg h.not_gt

theorem respondPop_of_outside (h : s.cfg.c ≤ s.head.toNat) (hempty : s.isEmpty = false) :
    s.respondPop = .error .slotRange := by
  simp [State.respondPop, State.pop, hempty, readSlot_of_outside h]

theorem respondPeek_of_outside (h : s.cfg.c ≤ s.head.toNat) (hempty : s.isEmpty = false) :
    s.respondPeek = .error .slotRange := by
  simp [State.respondPeek, State.peekFront, hempty, readSlot_of_outside h]

theorem push_of_outside (h : s.cfg.c ≤ s.tail.toNat) (hfull : s.isFull = false) (v : Byte) :
    s.push v = .error .slotRange := by
  simp [State.push, hfull, writeSlot_of_outside h]

/-- A command whose list is an action after the `CALL_PRE` wait faults in that action's cycle when the action does. -/
theorem runCommand_of_action_error {i : Instr} {a : FgAct} {rest : FgCode} {f : Fault}
    (hitems : itemsOf s.cfg i = .wait s.cfg.callPre (.act a rest))
    (h : runFgAct a { s with response := none } = .error f) : s.runCommand i s.cfg.callPre = .fault f := by
  rw [runCommand_eq_fgFrom, hitems, fgFrom_wait, if_neg (lt_irrefl _), fgFrom_act_error rest _ h]

end

/-- Settles O21: the action of READ and PEEK faults after their wait, and so does the store of a `push`. -/
theorem slotOutsideTheBufferFaults : Obligations.SlotOutsideTheBufferFaults := by
  refine ⟨fun s houtside hne => ?_, fun s v houtside hfull => push_of_outside houtside hfull v⟩
  have hempty : s.isEmpty = false := decide_eq_false hne
  exact ⟨runCommand_of_action_error rfl (respondPop_of_outside (s := { s with response := none }) houtside hempty),
    runCommand_of_action_error rfl (respondPeek_of_outside (s := { s with response := none }) houtside hempty)⟩

end Machine
end Sys2Proof
end

section
/-! Slots that are not occupied are never observed (20_memory.md R44): each action of either context gives the same from
two states that agree but for such slots, and so does a step. -/

namespace Sys2Proof.Machine

/-! ### States that agree but for slots that are not occupied -/

/-- The state with other slots. -/
def State.withBuf (s : State) (m : Memory) : State := { s with buf := m }

/-- The slots `m` hold the occupied bytes of `s`. -/
def State.OccupiedIn (s : State) (m : Memory) : Prop :=
  ∀ k, k < s.count → m.read (s.slotAt k) = s.buf.read (s.slotAt k)

theorem agreeOnOccupied_withBuf {s : State} {m : Memory} (h : s.OccupiedIn m) : s.AgreeOnOccupied (s.withBuf m) :=
  ⟨rfl, h⟩

theorem State.AgreeOnOccupied.eq_withBuf {s t : State} (h : s.AgreeOnOccupied t) :
    ∃ m, t = s.withBuf m ∧ s.OccupiedIn m :=
  ⟨t.buf, h⟩

/-- An action's results: states that agree on the occupied slots. -/
def ResultsAgree (x y : Except Fault State) : Prop :=
  ∃ u m, x = .ok u ∧ y = .ok (u.withBuf m) ∧ u.OccupiedIn m

theorem resultsAgree_withBuf {s : State} {m : Memory} (h : s.OccupiedIn m) :
    ResultsAgree (.ok s) (.ok (s.withBuf m)) :=
  ⟨s, m, rfl, rfl, h⟩

theorem State.DataOk.indices {s : State} (hs : s.DataOk) : s.IndicesInRange := hs.2.1

theorem State.DataOk.canonical {s : State} (hs : s.DataOk) : s.buf.wf = true := by
  obtain ⟨-, -, ⟨hcanonical, -⟩, -⟩ := hs
  exact hcanonical

theorem State.DataOk.capacity {s : State} (hs : s.DataOk) : 2 ≤ s.cfg.c ∧ s.cfg.c ≤ 256 := capacity_of_wf hs.1

/-! ### The occupied slots when an index moves -/

theorem occupancy_self (c : Nat) (i : Byte) : occupancy c i i = 0 := by
  simp [occupancy]

/-- An empty buffer has no occupied slot to agree on. -/
theorem occupiedIn_of_empty {s : State} (h : s.head = s.tail) (m : Memory) : s.OccupiedIn m := by
  intro k hk
  rw [State.count, h, occupancy_self] at hk
  exact absurd hk (Nat.not_lt_zero k)

theorem slotAt_zero {s : State} (h : s.IndicesInRange) : s.slotAt 0 = s.head.toNat :=
  Nat.mod_eq_of_lt h.1

theorem count_pos {s : State} (h : s.IndicesInRange) (hempty : s.isEmpty = false) : 0 < s.count := by
  have hne : s.head.toNat ≠ s.tail.toNat := fun h => of_decide_eq_false hempty (byte_eq_iff.2 h)
  have ⟨hhead, htail⟩ := h
  rw [count_eq h]
  split <;> omega

/-- The state with its oldest byte taken: `head` at the next index (43_ring_buffer.md R100). -/
def State.advanceHead (s : State) : State := { s with head := nextIndex s.cfg.c s.head }

/-- The state with a byte added: `tail` at the next index (43_ring_buffer.md R101). -/
def State.advanceTail (s : State) : State := { s with tail := nextIndex s.cfg.c s.tail }

theorem slotAt_advanceHead {s : State} (hs : s.DataOk) (k : Nat) : s.advanceHead.slotAt k = s.slotAt (k + 1) := by
  have hc := hs.capacity
  show ((nextIndex s.cfg.c s.head).toNat + k) % s.cfg.c = (s.head.toNat + (k + 1)) % s.cfg.c
  rw [nextIndex_toNat (by omega) hc.2, Nat.mod_add_mod, Nat.add_assoc, Nat.add_comm 1 k]

/-- One occupied slot fewer, whichever of the two indices has wrapped. -/
theorem count_advanceHead {s : State} (hs : s.DataOk) (hempty : s.isEmpty = false) :
    s.advanceHead.count + 1 = s.count := by
  have hc := hs.capacity
  have hpos := count_pos hs.indices hempty
  have ⟨hhead, htail⟩ := hs.indices
  have hnext := nextIndex_toNat (show 0 < s.cfg.c by omega) hc.2 s.head
  rw [mod_of_lt_two_mul (by omega)] at hnext
  rw [count_eq hs.indices] at hpos ⊢
  rw [count_eq (s := s.advanceHead) ⟨hs.nextIndex_lt s.head, htail⟩]
  simp only [State.advanceHead]
  grind

/-- One occupied slot more, whichever of the two indices has wrapped. -/
theorem count_advanceTail {s : State} (hs : s.DataOk) (hfull : s.isFull = false) :
    s.advanceTail.count = s.count + 1 := by
  have hc := hs.capacity
  have ⟨hhead, htail⟩ := hs.indices
  have hnext := nextIndex_toNat (show 0 < s.cfg.c by omega) hc.2 s.tail
  rw [mod_of_lt_two_mul (by omega)] at hnext
  have hne : (nextIndex s.cfg.c s.tail).toNat ≠ s.head.toNat :=
    fun h => of_decide_eq_false hfull (byte_eq_iff.2 h)
  rw [count_eq hs.indices, count_eq (s := s.advanceTail) ⟨hhead, hs.nextIndex_lt s.tail⟩]
  simp only [State.advanceTail]
  grind

/-- Taking the oldest byte keeps the agreement: the occupied slots left were occupied. -/
theorem State.OccupiedIn.advanceHead {s : State} {m : Memory} (h : s.OccupiedIn m) (hs : s.DataOk)
    (hempty : s.isEmpty = false) : s.advanceHead.OccupiedIn m := by
  intro k hk
  have hcount := count_advanceHead hs hempty
  rw [slotAt_advanceHead hs]
  exact h (k + 1) (by omega)

/-- Storing a byte at `tail` keeps the agreement: the occupied slots are not written, and the new one has the byte. -/
theorem State.OccupiedIn.store {s : State} {m : Memory} (h : s.OccupiedIn m) (hs : s.DataOk) (hm : m.wf = true)
    (hfull : s.isFull = false) (v : Byte) :
    (s.advanceTail.withBuf (s.buf.write s.tail.toNat v)).OccupiedIn (m.write s.tail.toNat v) := by
  intro k hk
  have hcount : k < s.count + 1 := count_advanceTail hs hfull ▸ hk
  show (m.write s.tail.toNat v).read (s.slotAt k) = (s.buf.write s.tail.toNat v).read (s.slotAt k)
  rw [Memory.read_write hm, Memory.read_write hs.canonical]
  split
  · rfl
  · next hne =>
    refine h k (lt_of_le_of_ne (Nat.lt_succ_iff.1 hcount) ?_)
    rintro rfl
    exact hne (slotAt_count hs.indices)

/-! ### What an action gives is decided by the occupied slots -/

/-- READ's action with `head` in the buffer (43_ring_buffer.md R104). -/
theorem respondPop_of_inside {s : State} (h : s.head.toNat < s.cfg.c) :
    s.respondPop = .ok (if s.isEmpty then s.respond Response.minusOne
      else s.advanceHead.respond ((s.buf.read s.head.toNat).zeroExtend 16)) := by
  cases hempty : s.isEmpty <;> simp [State.respondPop, State.pop, State.readSlot, hempty, h] <;> rfl

/-- PEEK's action with `head` in the buffer (43_ring_buffer.md R105). -/
theorem respondPeek_of_inside {s : State} (h : s.head.toNat < s.cfg.c) :
    s.respondPeek = .ok (if s.isEmpty then s.respond Response.minusOne
      else s.respond ((s.buf.read s.head.toNat).zeroExtend 16)) := by
  cases hempty : s.isEmpty <;> simp [State.respondPeek, State.peekFront, State.readSlot, hempty, h] <;> rfl

/-- The commit with `tail` in the buffer (42_receive.md R93). -/
theorem commit_of_inside {s : State} (h : s.tail.toNat < s.cfg.c) :
    s.commit = .ok (if s.isFull then { s with ovf := true, hPhase := .committed }
      else { s.advanceTail.withBuf (s.buf.write s.tail.toNat s.acc) with hPhase := .committed }) := by
  cases hfull : s.isFull <;>
    simp [State.commit, State.push, State.writeSlot, State.advanceTail, State.withBuf, hfull, h]

section
variable {s : State} {m : Memory}

/-- The byte at `head` of a buffer that is not empty is an occupied slot's. -/
theorem State.OccupiedIn.read_head (h : s.OccupiedIn m) (hs : s.DataOk) (hempty : s.isEmpty = false) :
    m.read s.head.toNat = s.buf.read s.head.toNat := by
  have hfirst := h 0 (count_pos hs.indices hempty)
  rwa [slotAt_zero hs.indices] at hfirst

theorem respondPop_resultsAgree (h : s.OccupiedIn m) (hs : s.DataOk) :
    ResultsAgree s.respondPop (s.withBuf m).respondPop := by
  have hhead := hs.indices.1
  rw [respondPop_of_inside hhead, respondPop_of_inside (s := s.withBuf m) hhead]
  show ResultsAgree _ (.ok (if s.isEmpty then _ else _))
  cases hempty : s.isEmpty with
  | true => exact resultsAgree_withBuf h
  | false =>
    simp only [State.withBuf, h.read_head hs hempty]
    exact resultsAgree_withBuf (h.advanceHead hs hempty)

theorem respondPeek_resultsAgree (h : s.OccupiedIn m) (hs : s.DataOk) :
    ResultsAgree s.respondPeek (s.withBuf m).respondPeek := by
  have hhead := hs.indices.1
  rw [respondPeek_of_inside hhead, respondPeek_of_inside (s := s.withBuf m) hhead]
  show ResultsAgree _ (.ok (if s.isEmpty then _ else _))
  cases hempty : s.isEmpty with
  | true => exact resultsAgree_withBuf h
  | false =>
    simp only [State.withBuf, h.read_head hs hempty]
    exact resultsAgree_withBuf h

theorem commit_resultsAgree (h : s.OccupiedIn m) (hs : s.DataOk) (hm : m.wf = true) :
    ResultsAgree s.commit (s.withBuf m).commit := by
  have htail := hs.indices.2
  rw [commit_of_inside htail, commit_of_inside (s := s.withBuf m) htail]
  show ResultsAgree _ (.ok (if s.isFull then _ else _))
  cases hfull : s.isFull with
  | true => exact resultsAgree_withBuf h
  | false => exact resultsAgree_withBuf (h.store hs hm hfull s.acc)

theorem install_resultsAgree (m : Memory) (baud : Nat) :
    ResultsAgree (runFgAct (.install baud) s) (runFgAct (.install baud) (s.withBuf m)) := by
  simp only [runFgAct, beginSession_eq, State.enterCritical, State.withBuf]
  cases lookupRow s.cfg.calTable baud <;> exact resultsAgree_withBuf (occupiedIn_of_empty rfl m)

/-- READ and PEEK respond with an occupied slot's byte, BEGIN and FLUSH empty the buffer, and the other actions of a
command leave the indices and the slots. -/
theorem runFgAct_resultsAgree (a : FgAct) (h : s.OccupiedIn m) (hs : s.DataOk) :
    ResultsAgree (runFgAct a s) (runFgAct a (s.withBuf m)) := by
  cases a with
  | install baud => exact install_resultsAgree m baud
  | resetIndices => exact resultsAgree_withBuf (occupiedIn_of_empty rfl m)
  | respondPop => exact respondPop_resultsAgree h hs
  | respondPeek => exact respondPeek_resultsAgree h hs
  | enableInterrupts => exact resultsAgree_withBuf h
  | disableInterrupts => exact resultsAgree_withBuf h
  | disarm => exact resultsAgree_withBuf h
  | respondCount => exact resultsAgree_withBuf h
  | readOverflow => exact resultsAgree_withBuf h
  | clearOverflow => exact resultsAgree_withBuf h
  | startBit => exact resultsAgree_withBuf h
  | dataBit level => exact resultsAgree_withBuf h
  | stopBit => exact resultsAgree_withBuf h
  | respond value => exact resultsAgree_withBuf h

/-- Of the handler's actions only the commit uses the slots. -/
theorem runHandlerAct_resultsAgree (a : HandlerAct) (h : s.OccupiedIn m) (hs : s.DataOk) (hm : m.wf = true) :
    ResultsAgree (runHandlerAct a s) (runHandlerAct a (s.withBuf m)) := by
  cases a with
  | commit => exact commit_resultsAgree h hs hm
  | startCheck => exact resultsAgree_withBuf h
  | sample i => exact resultsAgree_withBuf h
  | leave => exact resultsAgree_withBuf h

end

/-! ### A context's cycle -/

/-- A context's actions and conditions give the same from states with sound data that agree on the occupied slots, and
its actions keep the data sound. -/
structure IgnoresUnoccupied {α κ : Type} (run : α → State → Except Fault State) (holds : κ → State → Bool) :
    Prop where
  dataOk : ∀ {a s t}, run a s = .ok t → s.DataOk → t.DataOk
  act : ∀ a {s m}, s.OccupiedIn m → s.DataOk → (s.withBuf m).DataOk →
    ResultsAgree (run a s) (run a (s.withBuf m))
  test : ∀ c s m, holds c (s.withBuf m) = holds c s

theorem foreground_ignoresUnoccupied : IgnoresUnoccupied runFgAct fgHolds where
  dataOk := runFgAct_dataOk
  act a _ _ h hs _ := runFgAct_resultsAgree a h hs
  test c _ _ := by cases c <;> rfl

theorem handler_ignoresUnoccupied : IgnoresUnoccupied runHandlerAct handlerHolds where
  dataOk := runHandlerAct_dataOk
  act a _ _ h hs hm := runHandlerAct_resultsAgree a h hs hm.canonical
  test c _ _ := by cases c; rfl

theorem delayCycles_withBuf (s : State) (m : Memory) (d : TickSource) :
    (s.withBuf m).delayCycles d = s.delayCycles d := by
  cases d <;> rfl

/-- A cycle from states that agree ends in states that agree with the same list still to run, or in the same fault. -/
theorem IgnoresUnoccupied.advance {α κ : Type} {run : α → State → Except Fault State} {holds : κ → State → Bool}
    (hrun : IgnoresUnoccupied run holds) (code : Code α κ) {s : State} {m : Memory} (h : s.OccupiedIn m)
    (hs : s.DataOk) (hm : (s.withBuf m).DataOk) :
    (∃ u m' rest, Machine.advance run holds code s = .ok (u, rest) ∧
      Machine.advance run holds code (s.withBuf m) = .ok (u.withBuf m', rest) ∧ u.OccupiedIn m') ∨
    ∃ f, Machine.advance run holds code s = .error f ∧ Machine.advance run holds code (s.withBuf m) = .error f := by
  induction code generalizing s m with
  | done => exact .inl ⟨s, m, .done, rfl, rfl, h⟩
  | wait n rest ih =>
    cases n with
    | zero => exact ih h hs hm
    | succ n => exact .inl ⟨s, m, Code.waitThen n rest, rfl, rfl, h⟩
  | delay d rest ih =>
    rw [advance_delay, advance_delay, delayCycles_withBuf]
    cases s.delayCycles d with
    | zero => exact ih h hs hm
    | succ n => exact .inl ⟨s, m, Code.waitThen n rest, rfl, rfl, h⟩
  | act a rest ih =>
    obtain ⟨u, m', hu, hu', h'⟩ := hrun.act a h hs hm
    rw [advance_act rest hu, advance_act rest hu']
    exact ih h' (hrun.dataOk hu hs) (hrun.dataOk hu' hm)
  | test c yes no ihy ihn =>
    rw [advance_test, advance_test, hrun.test]
    split
    · exact ihy h hs hm
    · exact ihn h hs hm
  | raise f => exact .inr ⟨f, rfl, rfl⟩

section
variable {s : State} {m : Memory}

/-- Ending a command does not use the slots. -/
theorem complete_agreeOnOccupied (h : s.OccupiedIn m) : s.complete.AgreeOnOccupied (s.withBuf m).complete := by
  cases hdone : s.fgItems.isDone with
  | false =>
    rw [complete_of_running hdone, complete_of_running (s := s.withBuf m) hdone]
    exact agreeOnOccupied_withBuf h
  | true =>
    have hcode := (Code.isDone_iff _).1 hdone
    cases hresponse : s.response with
    | none =>
      rw [complete_of_none hresponse, complete_of_none (s := s.withBuf m) hresponse]
      exact agreeOnOccupied_withBuf h
    | some v =>
      rw [complete_of_response hcode hresponse, complete_of_response (s := s.withBuf m) hcode hresponse]
      exact agreeOnOccupied_withBuf h

theorem advanceHandler_outcomesAgree (h : s.OccupiedIn m) (hs : s.DataOk) (hm : (s.withBuf m).DataOk) :
    outcomesAgree s.advanceHandler (s.withBuf m).advanceHandler := by
  unfold State.advanceHandler
  rw [show (s.withBuf m).hItems = s.hItems from rfl]
  rcases handler_ignoresUnoccupied.advance s.hItems h hs hm with ⟨u, m', rest, hu, hu', h'⟩ | ⟨f, hf, hf'⟩
  · rw [hu, hu']
    exact agreeOnOccupied_withBuf (s := { u with hItems := rest }) h'
  · rw [hf, hf']
    rfl

theorem resumeFg_outcomesAgree (h : s.OccupiedIn m) (hs : s.DataOk) (hm : (s.withBuf m).DataOk) :
    outcomesAgree s.resumeFg (s.withBuf m).resumeFg := by
  unfold State.resumeFg
  rw [show (s.withBuf m).fgItems = s.fgItems from rfl]
  rcases foreground_ignoresUnoccupied.advance s.fgItems h hs hm with ⟨u, m', rest, hu, hu', h'⟩ | ⟨f, hf, hf'⟩
  · rw [hu, hu']
    exact complete_agreeOnOccupied (s := { u with fgItems := rest }) h'
  · rw [hf, hf']
    rfl

/-! ### The machine's cycle -/

theorem advanceFg_of_reserved {w v : Word} (hdone : s.fgItems = .done) (hword : s.stream[s.cp]? = some w)
    (hdecode : decode w = .reserved v) : s.advanceFg = .refused (.reserved v) := by
  simp only [State.advanceFg, (Code.isDone_iff _).2 hdone, if_true, hword, State.runWord, hdecode]

/-- The foreground runs its list, or fetches the same word. -/
theorem advanceFg_outcomesAgree (h : s.OccupiedIn m) (hs : s.DataOk) (hm : (s.withBuf m).DataOk) :
    outcomesAgree s.advanceFg (s.withBuf m).advanceFg := by
  cases hdone : s.fgItems.isDone with
  | false =>
    rw [advanceFg_of_running hdone, advanceFg_of_running (s := s.withBuf m) hdone]
    exact resumeFg_outcomesAgree h hs hm
  | true =>
    have hcode := (Code.isDone_iff _).1 hdone
    cases hword : s.stream[s.cp]? with
    | none =>
      rw [advanceFg_of_no_word hcode hword, advanceFg_of_no_word (s := s.withBuf m) hcode hword]
      exact agreeOnOccupied_withBuf h
    | some w =>
      cases hdecode : decode w with
      | reserved v =>
        rw [advanceFg_of_reserved hcode hword hdecode, advanceFg_of_reserved (s := s.withBuf m) hcode hword hdecode]
        rfl
      | instr i =>
        rw [advanceFg_of_fetch hcode hword hdecode, advanceFg_of_fetch (s := s.withBuf m) hcode hword hdecode,
          exec_eq_startCommand, exec_eq_startCommand]
        exact resumeFg_outcomesAgree
          (s := { s.takeCommand with fgItems := itemsOf s.cfg i, response := none }) h hs hm

theorem thenTick_outcomesAgree {o p : Host.Outcome State Fault Refusal} (h : outcomesAgree o p) :
    outcomesAgree (thenTick o) (thenTick p) := by
  cases o with
  | next s =>
    cases p with
    | next t =>
      obtain ⟨m, rfl, hm⟩ := State.AgreeOnOccupied.eq_withBuf h
      exact agreeOnOccupied_withBuf (s := s.tick) hm
    | fault f => exact h
    | refused r => exact h
  | fault f => cases p <;> exact h
  | refused r => cases p <;> exact h

/-- The context that takes the cycle is the same: edge detection and the tests for it do not use the slots. -/
theorem step_outcomesAgree (h : s.OccupiedIn m) (hs : s.DataOk) (hm : (s.withBuf m).DataOk) :
    outcomesAgree (step s) (step (s.withBuf m)) := by
  cases hactive : s.hActive with
  | true =>
    rw [step_of_active hs.1 hactive, step_of_active (s := s.withBuf m) hs.1 hactive]
    exact thenTick_outcomesAgree (advanceHandler_outcomesAgree (s := s.edgeDetect) h hs hm)
  | false =>
    cases hdispatch : s.edgeDetect.dispatchable with
    | true =>
      rw [step_of_dispatch hs.1 hactive hdispatch, step_of_dispatch (s := s.withBuf m) hs.1 hactive hdispatch]
      exact thenTick_outcomesAgree
        (advanceHandler_outcomesAgree (s := s.edgeDetect.dispatch (rxItems s.cfg)) h hs hm)
    | false =>
      cases hforeign : s.edgeDetect.foreignCycle with
      | true =>
        rw [step_of_foreignCycle hs.1 hactive hdispatch hforeign,
          step_of_foreignCycle (s := s.withBuf m) hs.1 hactive hdispatch hforeign]
        exact agreeOnOccupied_withBuf (s := s.edgeDetect.tick) h
      | false =>
        rw [step_of_fgTurn hs.1 ⟨hactive, hdispatch, hforeign⟩,
          step_of_fgTurn (s := s.withBuf m) hs.1 ⟨hactive, hdispatch, hforeign⟩]
        exact thenTick_outcomesAgree (advanceFg_outcomesAgree (s := s.edgeDetect) h hs hm)

end

/-- Settles O22: the other state is the first with other slots, and every context's cycle ignores the difference. -/
theorem unoccupiedSlotsAreNeverObserved : Obligations.UnoccupiedSlotsAreNeverObserved := by
  intro s t hs ht hagree
  obtain ⟨m, rfl, h⟩ := hagree.eq_withBuf
  exact step_outcomesAgree h ((State.inv_iff s).1 hs).1 ((State.inv_iff _).1 ht).1

end Sys2Proof.Machine
end

section
/-! The encodings of 30_encoding.md: the decoder and the encoder as inverses and the reserved words (R66, R69, R71), the
frame's word (R61), and the harness words IDLE, SEI and CLI (R68). -/

namespace Sys2Proof

open Laws (tableBase tableOperand EncodeFields.Statement)

/-! ### The decoder and the encoder -/

/-- A well-formed command's word by the table of R69. -/
theorem encode_toNat (i : Instr) : EncodeFields.Statement i := by
  cases i with
  | beginBaud baud => exact Laws.EncodeFields.beginBaud baud
  | endSession => exact Laws.EncodeFields.endSession
  | flush => exact Laws.EncodeFields.flush
  | available => exact Laws.EncodeFields.available
  | read => exact Laws.EncodeFields.read
  | peek => exact Laws.EncodeFields.peek
  | write byte => exact Laws.EncodeFields.write byte
  | overflowed => exact Laws.EncodeFields.overflowed
  | idle n => exact Laws.EncodeFields.idle n
  | sei => exact Laws.EncodeFields.sei
  | cli => exact Laws.EncodeFields.cli

theorem decode_of_op_begin {w : Word} (hop : w.op.toNat = 1) : decode w = .instr (.beginBaud w.operand.toNat) := by
  simp only [decode, hop]

theorem decode_of_op_write {w : Word} (hop : w.op.toNat = 7) (hzero : w.writeZero = 0) :
    decode w = .instr (.write w.byte) := by
  rw [decode, hop]
  exact if_pos hzero

theorem decode_of_op_idle {w : Word} (hop : w.op.toNat = 15) (hsub : w.sub.toNat = 0) :
    decode w = .instr (.idle w.count.toNat) := by
  simp only [decode, hop, hsub]

/-- Settles O1: the fields of a word with an operand are read off its number; the other words are constants. -/
theorem decodeOfEncodeIsTheCommand : Obligations.DecodeOfEncodeIsTheCommand := by
  intro i hwf
  cases i with
  | beginBaud baud =>
    have hlt : baud < 2 ^ 28 := of_decide_eq_true hwf
    have hword := encode_beginBaud_toNat hlt
    have hop : (encode (.beginBaud baud)).op.toNat = 1 := by rw [Word.op_toNat]; omega
    have hbaud : (encode (.beginBaud baud)).operand.toNat = baud := by rw [Word.operand_toNat]; omega
    rw [decode_of_op_begin hop, hbaud]
  | write byte =>
    have hlt := byte.isLt
    have hword := encode_write_toNat byte
    have hop : (encode (.write byte)).op.toNat = 7 := by rw [Word.op_toNat]; omega
    have hzero : (encode (.write byte)).writeZero = 0 := by rw [field_eq_zero, Word.writeZero_toNat]; omega
    have hbyte : (encode (.write byte)).byte = byte := BitVec.eq_of_toNat_eq (by rw [Word.byte_toNat]; omega)
    rw [decode_of_op_write hop hzero, hbyte]
  | idle n =>
    have hlt : n < 2 ^ 24 := of_decide_eq_true hwf
    have hword := encode_idle_toNat hlt
    have hop : (encode (.idle n)).op.toNat = 15 := by rw [Word.op_toNat]; omega
    have hsub : (encode (.idle n)).sub.toNat = 0 := by rw [Word.sub_toNat]; omega
    have hcount : (encode (.idle n)).count.toNat = n := by rw [Word.count_toNat]; omega
    rw [decode_of_op_idle hop hsub, hcount]
  | endSession => rfl
  | flush => rfl
  | available => rfl
  | read => rfl
  | peek => rfl
  | overflowed => rfl
  | sei => rfl
  | cli => rfl

/-- The words R66 reserves, by their number. -/
def IsReservedNumber (n : Nat) : Prop :=
  (n / 2 ^ 28 = 0 ∨ (9 ≤ n / 2 ^ 28 ∧ n / 2 ^ 28 ≤ 14)) ∨
  (n / 2 ^ 28 ∈ [2, 3, 4, 5, 6, 8] ∧ n % 2 ^ 28 ≠ 0) ∨
  (n / 2 ^ 28 = 7 ∧ n / 2 ^ 8 % 2 ^ 20 ≠ 0) ∨
  (n / 2 ^ 28 = 15 ∧ (n / 2 ^ 24 % 2 ^ 4 ∉ [0, 1, 2] ∨ (n / 2 ^ 24 % 2 ^ 4 ∈ [1, 2] ∧ n % 2 ^ 24 ≠ 0)))

/-- What the decoder's answer says of the word: its number is the one the table gives the command (R69), or is reserved
(R66). -/
def IsDecodingOf (w : Word) : Decoded → Prop
  | .instr i => i.wf = true ∧ w.toNat = tableBase i + tableOperand i
  | .reserved v => v = w ∧ IsReservedNumber w.toNat

/-- A command whose unused bits are a field that must be zero: its word, and reserved words (R66). -/
theorem isDecodingOf_of_zero_field {w : Word} {i : Instr} {n : Nat} {field : BitVec n} (hwf : i.wf = true)
    (hnumber : field.toNat = 0 → w.toNat = tableBase i + tableOperand i)
    (hreserved : field.toNat ≠ 0 → IsReservedNumber w.toNat) :
    IsDecodingOf w (if field = 0 then .instr i else .reserved w) := by
  split
  · next hzero => exact ⟨hwf, hnumber ((field_eq_zero field).1 hzero)⟩
  · next hzero => exact ⟨rfl, hreserved (mt (field_eq_zero field).2 hzero)⟩

/-- A command without operand has the word `op << 28`. -/
theorem decodePlain_isDecodingOf {w : Word} {i : Instr} {op : Nat} (hop : w.op.toNat = op)
    (hmem : op ∈ [2, 3, 4, 5, 6, 8]) (hwf : i.wf = true) (hbase : tableBase i + tableOperand i = op * 2 ^ 28) :
    IsDecodingOf w (decodePlain i w) := by
  rw [Word.op_toNat] at hop
  refine isDecodingOf_of_zero_field hwf (fun hzero => ?_) (fun hzero => ?_) <;> rw [Word.operand_toNat] at hzero
  · omega
  · exact .inr (.inl ⟨hop ▸ hmem, hzero⟩)

/-- WRITE's word is `7 << 28` and its byte. -/
theorem decodeWrite_isDecodingOf {w : Word} (hop : w.op.toNat = 7) :
    IsDecodingOf w (if w.writeZero = 0 then .instr (.write w.byte) else .reserved w) := by
  rw [Word.op_toNat] at hop
  refine isDecodingOf_of_zero_field rfl (fun hzero => ?_) (fun hzero => ?_) <;> rw [Word.writeZero_toNat] at hzero
  · simp only [tableBase, tableOperand, Word.byte_toNat]
    omega
  · exact .inr (.inr (.inl ⟨hop, hzero⟩))

/-- SEI and CLI have the word of their sub-code. -/
theorem decodeSub_isDecodingOf {w : Word} {i : Instr} {sub : Nat} (hop : w.op.toNat = 15) (hsub : w.sub.toNat = sub)
    (hmem : sub ∈ [1, 2]) (hwf : i.wf = true) (hbase : tableBase i + tableOperand i = 15 * 2 ^ 28 + sub * 2 ^ 24) :
    IsDecodingOf w (if w.count = 0 then .instr i else .reserved w) := by
  rw [Word.op_toNat] at hop
  rw [Word.sub_toNat] at hsub
  refine isDecodingOf_of_zero_field hwf (fun hzero => ?_) (fun hzero => ?_) <;> rw [Word.count_toNat] at hzero
  · omega
  · exact .inr (.inr (.inr ⟨hop, .inr ⟨hsub ▸ hmem, hzero⟩⟩))

/-- The decoder's answer on every word, by the rows of R64 and R68. -/
theorem decode_isDecodingOf (w : Word) : IsDecodingOf w (decode w) := by
  have hlt := w.isLt
  unfold decode
  split
  · next hop =>
    rw [Word.op_toNat] at hop
    exact ⟨decide_eq_true w.operand.isLt, by simp only [tableBase, tableOperand, Word.operand_toNat]; omega⟩
  · next hop => exact decodePlain_isDecodingOf hop (by decide) rfl rfl
  · next hop => exact decodePlain_isDecodingOf hop (by decide) rfl rfl
  · next hop => exact decodePlain_isDecodingOf hop (by decide) rfl rfl
  · next hop => exact decodePlain_isDecodingOf hop (by decide) rfl rfl
  · next hop => exact decodePlain_isDecodingOf hop (by decide) rfl rfl
  · next hop => exact decodeWrite_isDecodingOf hop
  · next hop => exact decodePlain_isDecodingOf hop (by decide) rfl rfl
  · next hop =>
    split
    · next hsub =>
      rw [Word.op_toNat] at hop
      rw [Word.sub_toNat] at hsub
      exact ⟨decide_eq_true w.count.isLt, by simp only [tableBase, tableOperand, Word.count_toNat]; omega⟩
    · next hsub => exact decodeSub_isDecodingOf hop hsub (by decide) rfl rfl
    · next hsub => exact decodeSub_isDecodingOf hop hsub (by decide) rfl rfl
    · next h0 h1 h2 =>
      rw [Word.op_toNat] at hop
      rw [Word.sub_toNat] at h0 h1 h2
      refine ⟨rfl, .inr (.inr (.inr ⟨hop, .inl ?_⟩))⟩
      simp only [List.mem_cons, List.not_mem_nil, or_false, not_or]
      exact ⟨h0, h1, h2⟩
  · next h1 h2 h3 h4 h5 h6 h7 h8 h15 =>
    simp only [Word.op_toNat, imp_false] at h1 h2 h3 h4 h5 h6 h7 h8 h15
    exact ⟨rfl, .inl (by omega)⟩

theorem decode_eq_instr {w : Word} {i : Instr} (h : decode w = .instr i) :
    i.wf = true ∧ w.toNat = tableBase i + tableOperand i := by
  have hdecoding := decode_isDecodingOf w
  rwa [h] at hdecoding

theorem decode_eq_reserved {w v : Word} (h : decode w = .reserved v) : v = w ∧ IsReservedNumber w.toNat := by
  have hdecoding := decode_isDecodingOf w
  rwa [h] at hdecoding

/-- Settles O2: the word has the number that the table gives the command, as its encoding has. -/
theorem everyCommandHasOneWord : Obligations.EveryCommandHasOneWord := by
  intro w i h
  obtain ⟨hwf, hnumber⟩ := decode_eq_instr h
  exact ⟨hwf, BitVec.eq_of_toNat_eq ((encode_toNat i hwf).trans hnumber.symm)⟩

/-! ### Reserved words -/

/-- No command's number is one that R66 reserves. -/
theorem not_isReservedNumber {i : Instr} (hwf : i.wf = true) : ¬ IsReservedNumber (tableBase i + tableOperand i) := by
  simp only [IsReservedNumber, List.mem_cons, List.not_mem_nil, or_false]
  cases i with
  | beginBaud baud =>
    have hlt : baud < 2 ^ 28 := of_decide_eq_true hwf
    simp only [tableBase, tableOperand]
    omega
  | write byte =>
    have hlt := byte.isLt
    simp only [tableBase, tableOperand]
    omega
  | idle n =>
    have hlt : n < 2 ^ 24 := of_decide_eq_true hwf
    simp only [tableBase, tableOperand]
    omega
  | _ => simp only [tableBase, tableOperand]; decide

theorem decode_eq_reserved_iff (w : Word) : decode w = .reserved w ↔ IsReservedNumber w.toNat := by
  constructor
  · exact fun h => (decode_eq_reserved h).2
  · intro hreserved
    cases hdecode : decode w with
    | instr i =>
      obtain ⟨hwf, hnumber⟩ := decode_eq_instr hdecode
      exact absurd (hnumber ▸ hreserved) (not_isReservedNumber hwf)
    | reserved v => rw [(decode_eq_reserved hdecode).1]

/-- Settles O3: the numbers of R66, and the fetch in the foreground's turn, which answers the refusal. -/
theorem reservedWordsAreRefused : Obligations.ReservedWordsAreRefused := by
  refine ⟨decode_eq_reserved_iff, fun s w hwf hturn hdone hword hdecode => ?_⟩
  rw [Machine.step_of_fgTurn hwf hturn, Machine.advanceFg_of_reserved (s := s.edgeDetect) hdone hword hdecode]
  rfl

namespace Machine

/-! ### The frame's word -/

/-- The bits of R61's number: the stop bit at 9, and the byte from bit 1. -/
theorem frameWord_getLsbD (x : Byte) {j : Nat} (hj : j < 10) :
    (frameWord x).getLsbD j = (decide (9 = j) || (!decide (j < 1) && x.getLsbD (j - 1))) := by
  have hbit : (x.setWidth 10).getLsbD (j - 1) = x.getLsbD (j - 1) := by
    rw [BitVec.getLsbD_setWidth, decide_eq_true (by omega), Bool.true_and]
  show (BitVec.twoPow 10 9 ||| x.setWidth 10 <<< 1).getLsbD j = _
  rw [BitVec.getLsbD_or, BitVec.getLsbD_twoPow, BitVec.getLsbD_shiftLeft, hbit, decide_eq_true hj]
  rfl

/-- Settles O6, slot by slot: the start bit, the data bits and the stop bit. -/
theorem frameWordHoldsTheSlotLevels : Obligations.FrameWordHoldsTheSlotLevels := by
  intro x j hj
  rw [frameWord_getLsbD x hj, frameLevel]
  rcases (by omega : j = 0 ∨ (1 ≤ j ∧ j ≤ 8) ∨ j = 9) with rfl | ⟨hpos, hdata⟩ | rfl
  · rfl
  · rw [decide_eq_false (by omega), decide_eq_false (by omega), if_neg (by omega), if_pos hdata]
    rfl
  · rfl

/-! ### Harness words -/

/-- IDLE alone only counts its wait down (R68). -/
theorem runCommand_idle (n m : Nat) (s : State) :
    s.runCommand (.idle n) m = .next { s with response := none, fgItems := Code.waitThen (n - 1 - m) .done } := by
  rw [runCommand_eq_fgFrom]
  show fgFrom (.wait n .done) { s with response := none } m = _
  rw [fgFrom_wait]
  split
  · exact congrArg _ (complete_of_none rfl)
  · next hm =>
    rw [fgFrom_done, complete_of_none rfl, show n - 1 - m = 0 by omega, Code.waitThen_zero]

/-- Settles O39: IDLE's wait after each number of cycles, and the one action of SEI and of CLI. -/
theorem harnessWordsTouchOnlyGie : Obligations.HarnessWordsTouchOnlyGie := by
  refine ⟨fun s n => ?_, fun s => rfl, fun s => rfl⟩
  obtain ⟨t, hexec, -⟩ := exec_next_of_runCommand (runCommand_idle n 0 s)
  have hcycles (m : Nat) : State.fgCycles m t = s.runCommand (.idle n) m := by rw [State.runCommand, hexec]
  refine ⟨t, hexec, fun m hm => ?_, ?_⟩
  · obtain ⟨k, hk⟩ := Nat.exists_eq_add_one.2 (by omega : 0 < n - 1 - m)
    rw [hcycles, runCommand_idle, hk, Code.waitThen_succ]
  · rw [hcycles, runCommand_idle, Nat.sub_self, Code.waitThen_zero]

end Machine

end Sys2Proof
end

section
/-! BEGIN and END (40_calibration_begin.md), with FLUSH's frame (43_ring_buffer.md R106): the lookup's first match (R73),
what a command does whose first action comes after `CALL_PRE`, and BEGIN's install, pause and enable (R72, R75, R76). -/

namespace Sys2Proof.Machine

/-! ### The lookup -/

theorem lookupRow_eq_find? (table : List CalRow) (baud : Nat) :
    lookupRow table baud = table.find? fun r => decide (r.baud = baud) := by
  induction table with
  | nil => rfl
  | cons q rest ih =>
    rw [lookupRow, List.find?_cons]
    by_cases hq : q.baud = baud
    · rw [if_pos hq, decide_eq_true hq]
    · rw [if_neg hq, decide_eq_false hq, ih]

/-- Settles O29: the lookup is the search of the list for the first row with the baud. -/
theorem lookupTakesTheFirstMatch : Obligations.LookupTakesTheFirstMatch := by
  intro table baud
  simp only [lookupRow_eq_find?]
  constructor
  · intro r
    rw [List.find?_eq_some_iff_append]
    simp only [Bool.not_eq_true', decide_eq_true_eq, decide_eq_false_iff_not]
    constructor
    · rintro ⟨hr, before, after, htable, hbefore⟩
      exact ⟨before, after, htable, hr, hbefore⟩
    · rintro ⟨before, after, htable, hr, hbefore⟩
      exact ⟨hr, before, after, htable, hbefore⟩
  · simp only [List.find?_eq_none, decide_eq_true_eq, ne_eq]

/-! ### A command whose first action comes after `CALL_PRE` -/

theorem fgCycles_of_exec {i : Instr} {s t : State} (h : exec i s = .next t) (n : Nat) :
    State.fgCycles n t = s.runCommand i n := by
  rw [State.runCommand, h]

section
variable {i : Instr} {a : FgAct} {rest : FgCode} {s t u : State} {n : Nat}

/-- From the cycle `CALL_PRE` after its fetch on, the command goes on from its action. -/
theorem runCommand_of_action (hitems : itemsOf s.cfg i = .wait s.cfg.callPre (.act a rest))
    (hact : runFgAct a { s with response := none } = .ok u) (m : Nat) :
    s.runCommand i (s.cfg.callPre + m) = fgFrom rest u m := by
  rw [runCommand_eq_fgFrom, hitems, fgFrom_wait, if_neg (by omega), Nat.add_sub_cancel_left, fgFrom_act rest m hact]

/-- At any cycle a command of the block has written nothing yet, or the wait `CALL_PRE` is over. -/
theorem runCommand_callPre_cases (h : s.runCommand i n = .next t) (hidle : ∀ k, i ≠ .idle k) (hsei : i ≠ .sei)
    (hcli : i ≠ .cli) :
    t = { s with response := none, fgItems := t.fgItems } ∨ ∃ m, s.runCommand i (s.cfg.callPre + m) = .next t := by
  rcases lt_or_ge n s.cfg.callPre with hn | hn
  · obtain ⟨u, hu, hwaiting, -⟩ := noEffectBeforeTheFirstAction i s n hidle hsei hcli hn
    cases hu.symm.trans h
    exact .inl hwaiting
  · obtain ⟨m, rfl⟩ := Nat.exists_eq_add_of_le hn
    exact .inr ⟨m, h⟩

/-- A command without a response that has no item left is complete, and stays so. -/
theorem fgFrom_done_of_none (hs : s.response = none) (n : Nat) : fgFrom .done s n = .next { s with fgItems := .done } := by
  rw [fgFrom_done, complete_of_none (by exact hs)]

end

/-! ### BEGIN's install action -/

/-- The block after the install of row `r`, in a critical section (R72, R75). -/
def State.installed (s : State) (r : CalRow) : State :=
  { s with
    rxCenter := BitVec.ofNat 16 r.center, rxIntra := BitVec.ofNat 16 r.intra
    rxStop := BitVec.ofNat 16 r.stop, txDelay := BitVec.ofNat 16 r.tx
    head := 0, tail := 0, ovf := false, armed := true, sGie := s.gie, row := some r }

/-- The block after the install action of a BEGIN whose baud the table does not have (R76). -/
def State.unconfigured (s : State) : State :=
  { s with
    rxCenter := 0, rxIntra := 0, rxStop := 0, txDelay := 0
    head := 0, tail := 0, ovf := false, armed := false, sGie := s.gie, row := none }

/-- BEGIN's list after a successful install: the pause and the enable (R75). -/
def pauseItems : FgCode := .delay .txDelay <| .act .enableInterrupts .done

section
variable {s : State} {baud : Nat} {r : CalRow}

theorem runFgAct_install_of_some (h : lookupRow s.cfg.calTable baud = some r) :
    runFgAct (.install baud) s = .ok (s.installed r) := by
  rw [runFgAct, beginSession_eq, show lookupRow s.enterCritical.cfg.calTable baud = some r from h]
  rfl

theorem runFgAct_install_of_none (h : lookupRow s.cfg.calTable baud = none) :
    runFgAct (.install baud) s = .ok s.unconfigured := by
  rw [runFgAct, beginSession_eq, show lookupRow s.enterCritical.cfg.calTable baud = none from h]
  rfl

/-- `txDelay` of a row of a well-formed table holds the row's delay, so the pause is `txDelay * K` cycles (R75). -/
theorem installed_delayCycles (hwf : s.cfg.wf = true) (h : lookupRow s.cfg.calTable baud = some r) :
    (s.installed r).delayCycles .txDelay = r.tx * s.cfg.k := by
  have hrow : r.wf = true := ((params_wf_iff s.cfg).1 hwf).2.2.2 r (lookupRow_mem h)
  obtain ⟨-, -, -, htx⟩ := installTiming_holdsRow hrow s
  exact congrArg (· * s.cfg.k) htx

/-- During the pause only the list moves on (R75). -/
theorem fgFrom_pause_of_lt {t : State} {m : Nat} (ht : t.response = none) (hm : m < t.delayCycles .txDelay) :
    ∃ code, fgFrom pauseItems t m = .next { t with fgItems := code } ∧ code.isDone = false := by
  rw [pauseItems, fgFrom_delay]
  exact fgFrom_during_wait hm rfl ht

/-- The pause over, `gie` is 1 and BEGIN is complete (R75). -/
theorem fgFrom_pause_of_le {t : State} {m : Nat} (ht : t.response = none) (hm : t.delayCycles .txDelay ≤ m) :
    fgFrom pauseItems t m = .next { t with gie := true, fgItems := .done } := by
  rw [pauseItems, fgFrom_delay, fgFrom_wait, if_neg (not_lt.2 hm), fgFrom_act .done _ rfl]
  exact fgFrom_done_of_none (s := { t with gie := true }) ht _

/-! ### BEGIN alone -/

theorem runCommand_begin_of_some (h : lookupRow s.cfg.calTable baud = some r) (m : Nat) :
    s.runCommand (.beginBaud baud) (s.cfg.callPre + m) =
      fgFrom pauseItems (State.installed { s with response := none } r) m := by
  rw [runCommand_of_action rfl (runFgAct_install_of_some (s := { s with response := none }) h), fgFrom_test]
  rfl

theorem runCommand_begin_of_none (h : lookupRow s.cfg.calTable baud = none) (m : Nat) :
    s.runCommand (.beginBaud baud) (s.cfg.callPre + m) =
      .next { s.unconfigured with response := none, fgItems := .done } := by
  rw [runCommand_of_action rfl (runFgAct_install_of_none (s := { s with response := none }) h), fgFrom_test]
  exact fgFrom_done_of_none (s := State.unconfigured { s with response := none }) rfl m

end

/-- Settles O30: at a cycle from `CALL_PRE` on BEGIN is in its pause, or past it. -/
theorem beginInstallsPausesAndEnables : Obligations.BeginInstallsPausesAndEnables := by
  intro s baud r hwf hrow
  have hpause : (State.installed { s with response := none } r).delayCycles .txDelay = r.tx * s.cfg.k :=
    installed_delayCycles (s := { s with response := none }) hwf hrow
  have hend := (runCommand_begin_of_some hrow (r.tx * s.cfg.k)).trans (fgFrom_pause_of_le rfl hpause.le)
  obtain ⟨t, hexec, hcycles⟩ := exec_next_of_runCommand hend
  refine ⟨t, hexec, fun n hfirst hlast => ?_, hcycles⟩
  obtain ⟨m, rfl⟩ := Nat.exists_eq_add_of_le hfirst
  obtain ⟨code, hrun, hcode⟩ := fgFrom_pause_of_lt (t := State.installed { s with response := none } r) (m := m) rfl
    (by omega)
  exact ⟨_, (fgCycles_of_exec hexec _).trans ((runCommand_begin_of_some hrow m).trans hrun), hcode, rfl⟩

/-- Settles O31: the test after the install action finds no row, so BEGIN is complete in that cycle. -/
theorem unsupportedBeginUnconfigures : Obligations.UnsupportedBeginUnconfigures := fun _ _ hrow =>
  exec_next_of_runCommand (runCommand_begin_of_none hrow 0)

/-! ### END and FLUSH alone -/

theorem runCommand_endSession (s : State) (m : Nat) :
    s.runCommand .endSession (s.cfg.callPre + m) =
      .next { s with armed := false, response := none, fgItems := .done } := by
  rw [runCommand_of_action (u := { s with armed := false, response := none }) rfl rfl]
  exact fgFrom_done_of_none rfl m

/-- FLUSH's critical section gives `gie` back, and its local `s` is `gie` (43_ring_buffer.md R106). -/
theorem runCommand_flush (s : State) (m : Nat) :
    s.runCommand .flush (s.cfg.callPre + m) =
      .next { s with head := 0, tail := 0, sGie := s.gie, response := none, fgItems := .done } := by
  rw [runCommand_of_action (u := { s with head := 0, tail := 0, sGie := s.gie, response := none }) rfl rfl]
  exact fgFrom_done_of_none rfl m

/-- Settles O32: the word decodes by evaluation, and the one action is reached at `CALL_PRE`. -/
theorem endDisarms : Obligations.EndDisarms :=
  ⟨rfl, fun s => exec_next_of_runCommand (runCommand_endSession s 0)⟩

/-! ### Frames -/

section
variable {s t : State} {n : Nat}

/-- No command stores in a slot of the buffer. -/
theorem runCommand_buf_read {i : Instr} (h : s.runCommand i n = .next t) (a : Nat) : t.buf.read a = s.buf.read a := by
  obtain ⟨-, hcontext⟩ := runCommand_keeps_contexts h
  obtain ⟨-, -, -, hbuf⟩ := by simpa only [State.handlerContext, Prod.mk.injEq] using hcontext
  rw [hbuf]

/-- BEGIN writes what its install action writes, and `gie` after the pause. -/
theorem runCommand_begin_frame {baud : Nat} (h : s.runCommand (.beginBaud baud) n = .next t) :
    t = { s with
      rxCenter := t.rxCenter, rxIntra := t.rxIntra, rxStop := t.rxStop, txDelay := t.txDelay
      head := t.head, tail := t.tail, ovf := t.ovf, armed := t.armed, gie := t.gie
      sGie := t.sGie, row := t.row, response := none, fgItems := t.fgItems } := by
  rcases runCommand_callPre_cases h nofun nofun nofun with hwaiting | ⟨m, hm⟩
  · rw [hwaiting]
  cases hrow : lookupRow s.cfg.calTable baud with
  | none =>
    cases (runCommand_begin_of_none hrow m).symm.trans hm
    rfl
  | some r =>
    rw [runCommand_begin_of_some hrow] at hm
    rcases lt_or_ge m ((State.installed { s with response := none } r).delayCycles .txDelay) with hpause | hpause
    · obtain ⟨code, hrun, -⟩ := fgFrom_pause_of_lt rfl hpause
      cases hrun.symm.trans hm
      rfl
    · cases (fgFrom_pause_of_le rfl hpause).symm.trans hm
      rfl

theorem runCommand_endSession_frame (h : s.runCommand .endSession n = .next t) :
    t = { s with armed := t.armed, response := none, fgItems := t.fgItems } := by
  rcases runCommand_callPre_cases h nofun nofun nofun with hwaiting | ⟨m, hm⟩
  · rw [hwaiting]
  · cases (runCommand_endSession s m).symm.trans hm
    rfl

theorem runCommand_flush_frame (h : s.runCommand .flush n = .next t) :
    t = { s with head := t.head, tail := t.tail, sGie := t.sGie, response := none, fgItems := t.fgItems } := by
  rcases runCommand_callPre_cases h nofun nofun nofun with hwaiting | ⟨m, hm⟩
  · rw [hwaiting]
  · cases (runCommand_flush s m).symm.trans hm
    rfl

end

/-- Settles O46, by the three frames. -/
theorem lifecycleFrame : Obligations.LifecycleFrame := fun _ _ _ _ =>
  ⟨fun h => ⟨runCommand_begin_frame h, runCommand_buf_read h⟩, runCommand_endSession_frame,
    fun h => ⟨runCommand_flush_frame h, runCommand_buf_read h⟩⟩

end Sys2Proof.Machine
end

section
/-! The delay primitive (41_delay.md) at the head of the foreground's list: popped in no cycle when its count is 0 (R81), and
otherwise the foreground's next `n * K` cycles (R80, R85). -/

namespace Sys2Proof.Machine

/-- A delay of no cycle is popped in the cycle that reaches it (R81). -/
theorem resumeFg_of_empty_delay {s : State} {d : TickSource} {rest : FgCode} (hitems : s.fgItems = .delay d rest)
    (hd : s.delayCycles d = 0) : s.resumeFg = { s with fgItems := rest }.resumeFg := by
  have hrest : State.resumeFg { s with fgItems := rest } = fgFrom rest s 0 := by
    rw [resumeFg_eq_fgFrom, fgFrom_fgItems]
  rw [hrest, resumeFg_eq_fgFrom, hitems, fgFrom_delay, hd, fgFrom_wait, if_neg (Nat.lt_irrefl 0)]

/-- A delay's own cycles pass with nothing written, the last of them leaving the rest of the list (R80, R85). -/
theorem fgCycles_of_delay {s : State} {d : TickSource} {rest : FgCode} (hitems : s.fgItems = .delay d rest)
    (hrest : rest.isDone = false) (hd : 0 < s.delayCycles d) :
    State.fgCycles (s.delayCycles d) s = .next { s with fgItems := rest } := by
  obtain ⟨n, hn⟩ := Nat.exists_eq_add_one.2 hd
  rw [hn, resumeFg_fgFrom, hitems, fgFrom_delay, hn, fgFrom_wait, if_pos n.lt_succ_self, Nat.add_sub_cancel, Nat.sub_self,
    Code.waitThen_zero, complete_of_running (by exact hrest)]

/-- Settles O48: `delay(n)` is a wait of `delayCycles`, and that is `n * K`. -/
theorem delayTakesItsTicks : Obligations.DelayTakesItsTicks := fun _ _ _ hitems hrest =>
  ⟨resumeFg_of_empty_delay hitems, fgCycles_of_delay hitems hrest⟩

end Sys2Proof.Machine
end

section
/-! The receive engine's parts (42_receive.md): the phase each of the handler's actions moves to (R94), the byte eight
samples assemble (R91), and what a cycle of the handler leaves of the state (R56, R129). -/

namespace Sys2Proof.Machine

/-! ### The handler's actions -/

/-- The state with `v` pushed: stored at `tail` with `tail` advanced, or dropped with `ovf` set when the buffer is full
(43_ring_buffer.md R101). -/
def State.pushed (s : State) (v : Byte) : State :=
  { s with
    buf := if s.isFull then s.buf else s.buf.write s.tail.toNat v
    tail := if s.isFull then s.tail else nextIndex s.cfg.c s.tail
    ovf := s.ovf || s.isFull }

theorem pushed_of_full {s : State} (h : s.isFull = true) (v : Byte) : s.pushed v = { s with ovf := true } := by
  simp [State.pushed, h]

theorem pushed_of_room {s : State} (h : s.isFull = false) (v : Byte) :
    s.pushed v = s.advanceTail.withBuf (s.buf.write s.tail.toNat v) := by
  simp [State.pushed, State.advanceTail, State.withBuf, h]

/-- The commit pushes the accumulator (42 R93). -/
theorem commit_eq_pushed {s : State} (h : s.tail.toNat < s.cfg.c) :
    runHandlerAct .commit s = .ok { s.pushed s.acc with hPhase := .committed } := by
  show s.commit = _
  rw [commit_of_inside h]
  cases hfull : s.isFull with
  | true => rw [pushed_of_full hfull]; rfl
  | false => rw [pushed_of_room hfull]; rfl

theorem commit_pushed {s t : State} (h : runHandlerAct .commit s = .ok t) :
    t = { s.pushed s.acc with hPhase := .committed } := by
  rcases commit_cases h with ⟨hfull, rfl⟩ | ⟨hroom, -, rfl⟩
  · rw [pushed_of_full hfull]
  · rw [pushed_of_room hroom]; rfl

theorem startCheck_of_high {s : State} (h : s.rxNow = true) : s.startCheck = { s with hLvl := true } := by
  simp [State.startCheck, h]

theorem startCheck_of_low {s : State} (h : s.rxNow = false) :
    s.startCheck = { s with hLvl := false, hPhase := .sampling 0 } := by
  simp [State.startCheck, h]

theorem phaseAfterSample_castSucc (i : Fin 7) : phaseAfterSample i.castSucc = .sampling i.succ :=
  dif_pos i.isLt

/-- Settles O53, action by action. -/
theorem handlerActionsMoveThePhase : Obligations.HandlerActionsMoveThePhase := by
  intro s
  refine ⟨fun _ => rfl, fun hhigh => ?_, fun hlow => ?_, fun i => ?_, rfl, fun hroom htail => ?_, fun hfull => ?_, rfl⟩
  · exact congrArg Except.ok (startCheck_of_high hhigh)
  · exact congrArg Except.ok (startCheck_of_low hlow)
  · rw [← phaseAfterSample_castSucc]; rfl
  · rw [commit_eq_pushed htail, pushed_of_room hroom]; rfl
  · simp [runHandlerAct, State.commit, State.push, hfull]

/-! ### The byte sampled -/

/-- Samples set the bits of their indices, whatever those were, and leave the others. -/
theorem foldl_setBit_getLsbD (level : Fin 8 → Bit) (is : List (Fin 8)) (b : Byte) (j : Fin 8) :
    (is.foldl (fun b i => b.setBit i (level i)) b).getLsbD j = if j ∈ is then level j else b.getLsbD j := by
  induction is generalizing b with
  | nil => simp
  | cons i is ih =>
    rw [List.foldl_cons, ih, setBit_getLsbD _ _ _ _ j.isLt]
    by_cases hrest : j ∈ is
    · simp [hrest]
    · by_cases hi : j = i <;> simp [hrest, hi, Fin.val_inj]

theorem mem_bitIndices (i : Fin 8) : i ∈ bitIndices := by
  revert i
  decide

/-- After eight samples the accumulator is the byte sampled, whatever it held before (42 R91). -/
theorem foldl_samples_eq_sampledByte (s : State) (acc : Byte) :
    bitIndices.foldl (fun b i => b.setBit i (s.rxAt (s.now + s.sampleOffset i.val))) acc = s.sampledByte := by
  refine BitVec.eq_of_getLsbD_eq fun i hi => ?_
  rw [State.sampledByte]
  have hset := foldl_setBit_getLsbD (fun i => s.rxAt (s.now + s.sampleOffset i.val)) bitIndices (j := ⟨i, hi⟩)
  simp only [mem_bitIndices, if_true] at hset
  rw [hset, hset]

/-- Settles O54: every bit's index is sampled. -/
theorem sampledByteHoldsTheLevels : Obligations.SampledByteHoldsTheLevels := fun s i hi =>
  (foldl_setBit_getLsbD (fun i => s.rxAt (s.now + s.sampleOffset i.val)) bitIndices 0 ⟨i, hi⟩).trans
    (if_pos (mem_bitIndices _))

/-! ### The frame of the handler's cycle -/

theorem State.Inv.dataOk {s : State} (hs : s.Inv) : s.DataOk := ((State.inv_iff s).1 hs).1

/-- The ring buffer: its capacity among the parameters, its indices, its slots and its flag. -/
def State.ring (s : State) : Params × Byte × Byte × Memory × Bit := (s.cfg, s.head, s.tail, s.buf, s.ovf)

theorem pushed_ring {s t : State} (h : t.ring = s.ring) (v : Byte) : (t.pushed v).ring = (s.pushed v).ring := by
  simp only [State.ring, Prod.mk.injEq] at h
  obtain ⟨hcfg, hhead, htail, hbuf, hovf⟩ := h
  have hfull : t.isFull = s.isFull := by rw [State.isFull, State.isFull, hcfg, hhead, htail]
  simp only [State.ring, State.pushed, hfull, hcfg, hhead, htail, hbuf, hovf]

/-- In a cycle that began in `s` the handler has pushed nothing and has at most one commit to come, or has pushed one byte
and has none. -/
def PushesAtMostOnce (s t : State) (code : HandlerCode) : Prop :=
  (t.ring = s.ring ∧ HandlerCode.commits code ≤ 1) ∨ ((∃ v, t.ring = (s.pushed v).ring) ∧ HandlerCode.commits code = 0)

theorem PushesAtMostOnce.act {s t u : State} {a : HandlerAct} {rest : HandlerCode}
    (h : PushesAtMostOnce s t (.act a rest)) (hrun : runHandlerAct a t = .ok u) : PushesAtMostOnce s u rest := by
  cases a with
  | commit =>
    rcases h with ⟨hring, hcommits⟩ | ⟨-, hcommits⟩
    · rw [commit_pushed hrun]
      exact .inr ⟨⟨t.acc, pushed_ring hring t.acc⟩, by simpa [HandlerCode.commits] using hcommits⟩
    · cases hcommits
  | startCheck => cases hrun; exact h
  | sample i => cases hrun; exact h
  | leave => cases hrun; exact h

/-- A branch has no more commits than its test. -/
theorem pushesAtMostOnce_handsOn (s : State) : HandsOn runHandlerAct handlerHolds (PushesAtMostOnce s) where
  wait _ _ _ h := ⟨h, fun _ => h⟩
  delay _ _ _ h := ⟨h, fun _ => h⟩
  act _ _ _ _ h hrun := h.act hrun
  yes _ _ _ _ h _ := h.imp (.imp_right (le_max_left _ _).trans) (.imp_right fun h => (Nat.max_eq_zero_iff.1 h).1)
  no _ _ _ _ h _ := h.imp (.imp_right (le_max_right _ _).trans) (.imp_right fun h => (Nat.max_eq_zero_iff.1 h).2)

theorem handlerStart_commits {s : State} (hs : s.Inv) : HandlerCode.commits s.handlerStart.hItems ≤ 1 := by
  rcases handlerStart_inHandler hs with ⟨-, -, -, -, -, hcommits⟩ | ⟨-, -, -, hdone⟩
  · exact hcommits
  · rw [hdone]; exact Nat.zero_le 1

theorem handlerStart_ring (s : State) : s.handlerStart.ring = s.ring := by
  unfold State.handlerStart
  split <;> rfl

/-- A cycle of the handler pushes at most one byte. -/
theorem advanceHandler_ring {s u : State} (hs : s.Inv) (h : s.handlerStart.advanceHandler = .next u) :
    u.ring = s.ring ∨ ∃ v, u.ring = (s.pushed v).ring := by
  obtain ⟨t, rest, hadvance, rfl⟩ := advanceHandler_eq_next h
  have hstart : PushesAtMostOnce s s.handlerStart s.handlerStart.hItems :=
    .inl ⟨handlerStart_ring s, handlerStart_commits hs⟩
  exact ((pushesAtMostOnce_handsOn s).advance hstart hadvance).imp And.left And.left

/-- Detecting the edge and dispatching write none of the inputs and nothing of the foreground's. -/
theorem handlerStart_keeps (s : State) :
    s.handlerStart.foregroundContext = s.foregroundContext ∧
      s.handlerStart.cfg = s.cfg ∧ s.handlerStart.line = s.line ∧ s.handlerStart.stream = s.stream ∧
        s.handlerStart.foreign = s.foreign ∧ s.handlerStart.now = s.now := by
  unfold State.handlerStart
  split <;> exact ⟨rfl, rfl, rfl, rfl, rfl, rfl⟩

/-- What the handler's cycle can write (60_exceptions.md R129). -/
theorem handlerCycle_frame {s u : State} (h : s.handlerStart.advanceHandler = .next u) :
    u.tick = { s with
      now := s.now + 1, pending := u.pending, rxPrev := u.rxPrev, gie := u.gie, hActive := u.hActive
      hPhase := u.hPhase, acc := u.acc, hSaved := u.hSaved, hLvl := u.hLvl, hItems := u.hItems
      buf := u.buf, tail := u.tail, ovf := u.ovf } := by
  obtain ⟨hunacted, hfg⟩ := advanceHandler_keeps h
  obtain ⟨hfg', hcfg, hline, hstream, hforeign, hnow⟩ := handlerStart_keeps s
  rw [hfg'] at hfg
  simp only [State.unacted, State.foregroundContext, Prod.mk.injEq, hcfg, hline, hstream, hforeign, hnow] at hunacted hfg
  obtain ⟨hcfg, hline, hstream, hforeign, hnow, -⟩ := hunacted
  simp [State.tick, hcfg, hline, hstream, hforeign, hnow, hfg]

/-- Settles O15, by the frame of the handler's actions and the one push its list allows. -/
theorem handlerCycleFrame : Obligations.HandlerCycleFrame := by
  intro s t hs hturn h
  have hwf := hs.dataOk.canonical
  rcases step_cases h with ⟨-, u, hu, rfl⟩ | ⟨hfg, -⟩ | ⟨hidle, -⟩
  case inr.inl => exact absurd hturn (not_handlerTurn_of_fgTurn hfg)
  case inr.inr => exact absurd hturn hidle
  refine ⟨handlerCycle_frame hu, ?_⟩
  rcases advanceHandler_ring hs hu with hring | ⟨v, hring⟩
  · simp only [State.ring, Prod.mk.injEq] at hring
    obtain ⟨-, -, htail, hbuf, hovf⟩ := hring
    exact .inl ⟨htail, fun a => congrArg (Memory.read · a) hbuf, .inl hovf⟩
  cases hfull : s.isFull with
  | true =>
    simp only [pushed_of_full hfull, State.ring, Prod.mk.injEq] at hring
    obtain ⟨-, -, htail, hbuf, hovf⟩ := hring
    exact .inl ⟨htail, fun a => congrArg (Memory.read · a) hbuf, .inr ⟨rfl, hovf⟩⟩
  | false =>
    simp only [pushed_of_room hfull, State.ring, Prod.mk.injEq] at hring
    obtain ⟨-, -, htail, hbuf, hovf⟩ := hring
    refine .inr ⟨rfl, htail, hovf, fun a ha => ?_⟩
    rw [State.tick_buf, hbuf]
    exact (Memory.read_write hwf _ v a).trans (if_neg ha)

end Sys2Proof.Machine
end

section
/-! A run of the handler, from its dispatch (60_exceptions.md R123) to its return, followed from one point of its list to the
next: a spurious edge's (42_receive.md R88) and a frame's (R87, R90 to R97). -/

namespace Sys2Proof.Machine

/-! ### What a wait leaves alone -/

/-- The handler has the machine: active, with `gie` 0 (R87, R95). -/
def State.Handling (s : State) : Prop := s.cfg.wf = true ∧ s.hActive = true ∧ s.gie = false

theorem State.Handling.coast {s : State} (h : s.Handling) (k : Nat) : (coast k s).Handling := by
  rw [coast_eq]
  exact h

theorem coast_ring (k : Nat) (s : State) : (coast k s).ring = s.ring := by
  rw [coast_eq]
  rfl

/-- The state with the level the start-bit check read. -/
def State.withLvl (s : State) (lvl : Bit) : State := { s with hLvl := lvl }

theorem coast_withLvl (k : Nat) (s : State) (lvl : Bit) : coast k (s.withLvl lvl) = (coast k s).withLvl lvl := by
  induction k generalizing s with
  | zero => rfl
  | succ k ih => exact ih s.tick.edgeDetect

theorem coast_pushed (k : Nat) (s : State) (v : Byte) : coast k (s.pushed v) = (coast k s).pushed v := by
  induction k generalizing s with
  | zero => rfl
  | succ k ih => exact ih s.tick.edgeDetect

theorem inFrame_pushed (d : State) (k : Nat) (phase : Phase) (acc v : Byte) :
    inFrame (d.pushed v) k phase acc = (inFrame d k phase acc).pushed v := by
  unfold inFrame
  rw [coast_pushed]
  rfl

theorem State.Handling.inFrame {d : State} (h : d.Handling) (k : Nat) (phase : Phase) (acc : Byte) :
    (inFrame d k phase acc).Handling := h.coast k

theorem inFrame_now (d : State) (k : Nat) (phase : Phase) (acc : Byte) : (inFrame d k phase acc).now = d.now + k :=
  coast_now k d

theorem inFrame_ring (d : State) (k : Nat) (phase : Phase) (acc : Byte) : (inFrame d k phase acc).ring = d.ring :=
  coast_ring k d

/-! ### Points of a run -/

/-- A point of a run: the state in whose cycle the handler reaches a list. -/
structure HandlerPoint where
  state : State
  code : HandlerCode

/-- The machine at the end of cycle `c` of a run that is at `p`. -/
def HandlerPoint.outcomeAt (p : HandlerPoint) (c : Nat) : Host.Outcome State Fault Refusal :=
  handlerFrom p.code p.state (c - p.state.now)

/-- A run at `p` comes to `q`: the handler has the machine in every cycle before `q`'s, and the ring buffer is as it was. -/
structure HandlerPoint.Reaches (p q : HandlerPoint) : Prop where
  le : p.state.now ≤ q.state.now
  ring : q.state.ring = p.state.ring
  waits : ∀ c, p.state.now ≤ c → c < q.state.now →
    ∃ u, p.outcomeAt c = .next u ∧ u.hActive = true ∧ u.gie = false ∧ u.ring = p.state.ring
  arrives : ∀ c, q.state.now ≤ c → p.outcomeAt c = q.outcomeAt c

theorem HandlerPoint.Reaches.trans {p q r : HandlerPoint} (hpq : p.Reaches q) (hqr : q.Reaches r) : p.Reaches r where
  le := hpq.le.trans hqr.le
  ring := hqr.ring.trans hpq.ring
  waits c hp hr := by
    rcases lt_or_ge c q.state.now with hq | hq
    · exact hpq.waits c hp hq
    · rw [hpq.arrives c hq, ← hpq.ring]
      exact hqr.waits c hq hr
  arrives c hr := (hpq.arrives c (hqr.le.trans hr)).trans (hqr.arrives c hr)

/-- A point reached in the same cycle. -/
theorem reaches_in_cycle {s t : State} {code rest : HandlerCode} (hnow : t.now = s.now) (hring : t.ring = s.ring)
    (h : ∀ n, handlerFrom code s n = handlerFrom rest t n) : HandlerPoint.Reaches ⟨s, code⟩ ⟨t, rest⟩ where
  le := hnow.ge
  ring := hring
  waits _ hs ht := absurd (hs.trans_lt ht) hnow.not_gt
  arrives c _ := by
    show handlerFrom code s (c - s.now) = handlerFrom rest t (c - t.now)
    rw [hnow, h]

theorem reaches_wait {s : State} (h : s.Handling) (w : Nat) (rest : HandlerCode) :
    HandlerPoint.Reaches ⟨s, .wait w rest⟩ ⟨coast w s, rest⟩ where
  le := by simp
  ring := coast_ring w s
  waits c hs hc := by
    obtain ⟨hwf, hactive, hgie⟩ := h
    refine ⟨_, (handlerFrom_wait w rest s hwf hactive (c - s.now)).trans (if_pos ?_), ?_, ?_, ?_⟩
    · simp only [coast_now] at hs hc
      omega
    · exact (coast_hActive _ s).trans hactive
    · exact (coast_gie _ s).trans hgie
    · exact coast_ring _ s
  arrives c hc := by
    obtain ⟨hwf, hactive, -⟩ := h
    simp only [coast_now] at hc
    refine (handlerFrom_wait w rest s hwf hactive (c - s.now)).trans ((if_neg (by omega)).trans ?_)
    rw [HandlerPoint.outcomeAt, coast_now, Nat.sub_sub]

theorem reaches_inFrame_wait {d : State} (h : d.Handling) (k : Nat) (phase : Phase) (acc : Byte) (w : Nat)
    (rest : HandlerCode) :
    HandlerPoint.Reaches ⟨inFrame d k phase acc, .wait w rest⟩ ⟨inFrame d (k + w) phase acc, rest⟩ :=
  coast_inFrame d w k phase acc ▸ reaches_wait (h.inFrame k phase acc) w rest

theorem reaches_inFrame_delay {d : State} (h : d.Handling) (k : Nat) (phase : Phase) (acc : Byte) (n : TickSource)
    (rest : HandlerCode) :
    HandlerPoint.Reaches ⟨inFrame d k phase acc, .delay n rest⟩ ⟨inFrame d (k + d.delayCycles n) phase acc, rest⟩ :=
  .trans (reaches_in_cycle rfl rfl fun m => by rw [handlerFrom_delay, inFrame_delayCycles])
    (reaches_inFrame_wait h k phase acc (d.delayCycles n) rest)

theorem reaches_inFrame_sample (d : State) (k : Nat) (phase : Phase) (acc : Byte) (i : Fin 8) (rest : HandlerCode) :
    HandlerPoint.Reaches ⟨inFrame d k phase acc, .act (.sample i) rest⟩
      ⟨inFrame d k (phaseAfterSample i) (acc.setBit i (d.rxAt (d.now + k))), rest⟩ :=
  reaches_in_cycle rfl rfl fun n => handlerFrom_act rest n (inFrame_sample d k phase acc i)

/-! ### The dispatch and the start-bit check -/

/-- The state a dispatch at the current cycle starts the handler's list in (60_exceptions.md R123). -/
def State.dispatched (s : State) : State := s.edgeDetect.dispatch (rxItems s.cfg)

/-- The list of a high check (R88). -/
def spuriousItems (p : Params) : HandlerCode := .wait p.rxXa <| .act .leave .done

/-- The list of a low check (R89, R90). -/
def frameItems (p : Params) : HandlerCode := .wait p.rxOc <| .delay .rxCenter <| sampleItems p bitIndices

/-- The list from the check on (R87). -/
def checkItems (p : Params) : HandlerCode := .act .startCheck <| .test .lineHigh (spuriousItems p) (frameItems p)

theorem State.Dispatches.armed_gie {s : State} (h : s.Dispatches) : s.armed = true ∧ s.gie = true := by
  have hd := h.2
  simp only [State.dispatchable, Bool.and_eq_true] at hd
  exact ⟨hd.1.2, hd.2⟩

/-- Before its dispatch the handler is in phase Idle with no list (R30). -/
theorem State.Inv.idle {s : State} (hs : s.Inv) (hidle : s.hActive = false) : s.hPhase = .idle ∧ s.hItems = .done := by
  obtain ⟨-, -, ⟨hshape, -⟩, -⟩ := (State.inv_iff s).1 hs
  exact hshape hidle

theorem State.Inv.dispatched_handling {s : State} (hs : s.Inv) : s.dispatched.Handling := ⟨hs.1, rfl, rfl⟩

/-- The check is made `E_RX` cycles after the dispatch (R88). -/
theorem reaches_check {s : State} (hs : s.Inv) :
    HandlerPoint.Reaches ⟨s.dispatched, rxItems s.cfg⟩ ⟨coast s.cfg.eRx s.dispatched, checkItems s.cfg⟩ :=
  reaches_wait hs.dispatched_handling s.cfg.eRx (checkItems s.cfg)

theorem coast_dispatched_rxNow (k : Nat) (s : State) : (coast k s.dispatched).rxNow = s.rxAt (s.now + k) :=
  coast_rxNow k s.dispatched

/-- A high check leads to the return (R88). -/
theorem reaches_spuriousItems {s : State} (hhigh : s.rxAt (s.now + s.cfg.eRx) = true) :
    HandlerPoint.Reaches ⟨coast s.cfg.eRx s.dispatched, checkItems s.cfg⟩
      ⟨(coast s.cfg.eRx s.dispatched).withLvl true, spuriousItems s.cfg⟩ := by
  refine reaches_in_cycle rfl rfl fun n => ?_
  rw [checkItems, handlerFrom_act _ n rfl, startCheck_of_high ((coast_dispatched_rxNow _ s).trans hhigh), handlerFrom_test]
  rfl

/-- A low check starts the frame (R88, R89). -/
theorem reaches_frameItems {s : State} (hlow : s.rxAt (s.now + s.cfg.eRx) = false) :
    HandlerPoint.Reaches ⟨coast s.cfg.eRx s.dispatched, checkItems s.cfg⟩
      ⟨inFrame s.dispatched s.cfg.eRx (.sampling 0) s.acc, frameItems s.cfg⟩ := by
  refine reaches_in_cycle rfl rfl fun n => ?_
  have hacc : (coast s.cfg.eRx s.dispatched).acc = s.acc := coast_acc _ _
  rw [checkItems, handlerFrom_act _ n rfl, startCheck_of_low ((coast_dispatched_rxNow _ s).trans hlow), handlerFrom_test,
    inFrame, ← hacc]
  rfl

/-- The machine `n + 1` steps on is at the end of the run's cycle `n`. -/
theorem runSteps_eq_outcomeAt {s : State} (hs : s.Inv) (hd : s.Dispatches) (n : Nat) :
    runSteps (n + 1) s = HandlerPoint.outcomeAt ⟨s.dispatched, rxItems s.cfg⟩ (s.now + n) := by
  have hcycle : s.now + n - s.dispatched.now = n := Nat.add_sub_cancel_left s.now n
  rw [HandlerPoint.outcomeAt, hcycle]
  exact runSteps_dispatch hs.1 hd.1 hd.2 n

theorem outcomeAt_leave {s : State} {c : Nat} (hc : s.now = c) :
    HandlerPoint.outcomeAt ⟨s, .act .leave .done⟩ c = .next (State.tick { s with
      hPhase := .idle, gie := s.hSaved, hActive := false, hItems := .done }) := by
  subst hc
  rw [HandlerPoint.outcomeAt, Nat.sub_self]
  rfl

/-! ### A spurious edge -/

theorem reaches_spurious_leave {s : State} (hs : s.Inv) (hhigh : s.rxAt (s.now + s.cfg.eRx) = true) :
    HandlerPoint.Reaches ⟨s.dispatched, rxItems s.cfg⟩
      ⟨(coast (s.cfg.eRx + s.cfg.rxXa) s.dispatched).withLvl true, .act .leave .done⟩ := by
  have hwait := reaches_wait (s := (coast s.cfg.eRx s.dispatched).withLvl true)
    (hs.dispatched_handling.coast s.cfg.eRx) s.cfg.rxXa (.act .leave .done)
  rw [coast_withLvl, coast_add] at hwait
  exact ((reaches_check hs).trans (reaches_spuriousItems hhigh)).trans hwait

/-- Settles O55, by the points of the run of a high check. -/
theorem spuriousEdgeIsDiscarded : Obligations.SpuriousEdgeIsDiscarded := by
  intro s hs hidle hdispatch hhigh
  have hd : s.Dispatches := ⟨hidle, hdispatch⟩
  have hleave := reaches_spurious_leave hs hhigh
  have hnow : (coast (s.cfg.eRx + s.cfg.rxXa) s.dispatched).now = s.now + (s.cfg.eRx + s.cfg.rxXa) := coast_now _ _
  refine ⟨fun n hpos hn => ?_, _, (runSteps_eq_outcomeAt hs hd (s.cfg.eRx + s.cfg.rxXa)).trans
    ((hleave.arrives _ hnow.le).trans (outcomeAt_leave hnow)), ?_⟩
  · obtain ⟨n, rfl⟩ := Nat.exists_eq_add_one.2 hpos
    have hbefore : s.now + n < s.now + (s.cfg.eRx + s.cfg.rxXa) :=
      Nat.add_lt_add_left (Nat.lt_of_add_lt_add_right hn) s.now
    obtain ⟨u, hu, hactive, hgie, -⟩ := hleave.waits (s.now + n) (Nat.le_add_right _ n) (hbefore.trans_eq hnow.symm)
    exact ⟨u, (runSteps_eq_outcomeAt hs hd n).trans hu, hactive, hgie⟩
  · obtain ⟨hphase, hitems⟩ := hs.idle hidle
    obtain ⟨-, hgie⟩ := hd.armed_gie
    rw [State.dispatched, State.withLvl, coast_dispatch]
    have hend : s.now + (s.cfg.eRx + s.cfg.rxXa) + 1 = s.now + s.spuriousDuration := rfl
    simp [State.tick, hend.symm, hphase, hitems, hgie, hidle]

/-! ### A frame up to its commit -/

/-- The cycles from the dispatch to the first bit's period: the check's and the centering (R89). -/
def State.firstBitOffset (s : State) : Nat := s.cfg.eRx + s.cfg.rxOc + s.delayCycles .rxCenter

theorem sampleOffset_eq (s : State) (i : Nat) : s.sampleOffset i = s.firstBitOffset + (i + 1) * s.rxBitPeriod := rfl

/-- The list from the commit on (R87, R93). -/
def commitItems (p : Params) : HandlerCode := .act .commit <| .wait p.rxXr <| .act .leave .done

section
variable {d : State} (h : d.Handling)
include h

/-- A bit's period ends in its sample (R90, R91). -/
theorem reaches_next_sampleItems (i : Fin 8) (is : List (Fin 8)) (phase : Phase) (acc : Byte) :
    HandlerPoint.Reaches ⟨inFrame d (d.firstBitOffset + i.val * d.rxBitPeriod) phase acc, sampleItems d.cfg (i :: is)⟩
      ⟨inFrame d (d.firstBitOffset + (i.val + 1) * d.rxBitPeriod) (phaseAfterSample i)
        (acc.setBit i (d.rxAt (d.now + d.sampleOffset i.val))), sampleItems d.cfg is⟩ := by
  have hperiod : d.firstBitOffset + i.val * d.rxBitPeriod + d.delayCycles .rxIntra + d.cfg.rxOb =
      d.firstBitOffset + (i.val + 1) * d.rxBitPeriod := by
    rw [Nat.add_one_mul, State.rxBitPeriod]
    omega
  have hwait := (reaches_inFrame_delay h _ phase acc .rxIntra _).trans
    (reaches_inFrame_wait h (d.firstBitOffset + i.val * d.rxBitPeriod + d.delayCycles .rxIntra) phase acc d.cfg.rxOb
      (.act (.sample i) (sampleItems d.cfg is)))
  rw [hperiod] at hwait
  rw [sampleOffset_eq]
  exact hwait.trans (reaches_inFrame_sample d _ phase acc i _)

/-- The data bits from bit `j` on, sampled one bit period apart (R90, R91). -/
theorem reaches_stopItems (is : List (Fin 8)) {j : Nat} (his : is.map Fin.val = List.range' j is.length) (phase : Phase)
    (acc : Byte) :
    ∃ phase', HandlerPoint.Reaches
      ⟨inFrame d (d.firstBitOffset + j * d.rxBitPeriod) phase acc, sampleItems d.cfg is⟩
      ⟨inFrame d (d.firstBitOffset + (j + is.length) * d.rxBitPeriod) phase'
        (is.foldl (fun b i => b.setBit i (d.rxAt (d.now + d.sampleOffset i.val))) acc), stopItems d.cfg⟩ := by
  induction is generalizing j phase acc with
  | nil => exact ⟨phase, reaches_in_cycle rfl rfl fun _ => rfl⟩
  | cons i is ih =>
    rw [List.length_cons, List.map_cons, List.range'_succ, List.cons.injEq] at his
    obtain ⟨rfl, hrest⟩ := his
    obtain ⟨phase', hsamples⟩ := ih hrest (phaseAfterSample i) (acc.setBit i (d.rxAt (d.now + d.sampleOffset i.val)))
    rw [List.length_cons, Nat.add_comm is.length, ← Nat.add_assoc]
    exact ⟨phase', (reaches_next_sampleItems h i is phase acc).trans hsamples⟩

/-- The stop guard (R92). -/
theorem reaches_commitItems (k : Nat) (phase : Phase) (acc : Byte) :
    HandlerPoint.Reaches ⟨inFrame d k phase acc, stopItems d.cfg⟩
      ⟨inFrame d (k + d.cfg.rxOs + d.delayCycles .rxStop + d.cfg.rxOcm) phase acc, commitItems d.cfg⟩ :=
  ((reaches_inFrame_wait h k phase acc d.cfg.rxOs _).trans (reaches_inFrame_delay h _ phase acc .rxStop _)).trans
    (reaches_inFrame_wait h _ phase acc d.cfg.rxOcm (commitItems d.cfg))

/-- From a low start-bit check the run comes to the commit at R93's cycle with the byte sampled (R89 to R93). -/
theorem reaches_commit (phase : Phase) (acc : Byte) :
    ∃ phase', HandlerPoint.Reaches ⟨inFrame d d.cfg.eRx phase acc, frameItems d.cfg⟩
      ⟨inFrame d d.commitOffset phase' d.sampledByte, commitItems d.cfg⟩ := by
  have hcenter := (reaches_inFrame_wait h d.cfg.eRx phase acc d.cfg.rxOc _).trans
    (reaches_inFrame_delay h _ phase acc .rxCenter (sampleItems d.cfg bitIndices))
  obtain ⟨phase', hbits⟩ := reaches_stopItems h bitIndices (j := 0) rfl phase acc
  rw [foldl_samples_eq_sampledByte, Nat.zero_mul] at hbits
  exact ⟨phase', (hcenter.trans hbits).trans (reaches_commitItems h _ phase' d.sampledByte)⟩

end

end Sys2Proof.Machine
end

section
/-! A frame's commit and return (42_receive.md R93, R95), the pin changes its run latches (R96), and the byte the buffer
receives (R97). -/

namespace Sys2Proof.Machine

/-! ### The commit and the return -/

theorem inFrame_commit {d : State} (htail : d.tail.toNat < d.cfg.c) (k : Nat) (phase : Phase) (acc : Byte) :
    runHandlerAct .commit (inFrame d k phase acc) = .ok (inFrame (d.pushed acc) k .committed acc) := by
  have hframe : (inFrame d k phase acc).tail.toNat < (inFrame d k phase acc).cfg.c := by
    rw [inFrame, coast_eq]
    exact htail
  rw [commit_eq_pushed hframe, inFrame_pushed]
  rfl

/-- The state after a frame's commit, at its dispatch: the byte sampled pushed (R93). -/
def State.received (s : State) : State := s.dispatched.pushed s.sampledByte

/-- The state in which a frame's run returns (R95). -/
def State.frameEnd (s : State) : State := inFrame s.received (s.commitOffset + s.cfg.rxXr) .committed s.sampledByte

theorem frameEnd_now (s : State) : s.frameEnd.now = s.now + (s.commitOffset + s.cfg.rxXr) := inFrame_now _ _ _ _

section
variable {s : State} (hs : s.Inv) (hlow : s.rxAt (s.now + s.cfg.eRx) = false)
include hs

/-- From the commit the handler waits `RX_XR` cycles to its return (R95). -/
theorem reaches_frame_leave :
    HandlerPoint.Reaches ⟨inFrame s.received s.commitOffset .committed s.sampledByte, .wait s.cfg.rxXr <| .act .leave .done⟩
      ⟨s.frameEnd, .act .leave .done⟩ :=
  reaches_inFrame_wait (d := s.received) hs.dispatched_handling s.commitOffset .committed s.sampledByte s.cfg.rxXr _

include hlow

/-- A dispatch whose check reads low comes to the commit with the byte sampled (R93). -/
theorem reaches_frame_commit :
    ∃ phase, HandlerPoint.Reaches ⟨s.dispatched, rxItems s.cfg⟩
      ⟨inFrame s.dispatched s.commitOffset phase s.sampledByte, commitItems s.cfg⟩ := by
  obtain ⟨phase, hcommit⟩ := reaches_commit hs.dispatched_handling (.sampling 0) s.acc
  exact ⟨phase, ((reaches_check hs).trans (reaches_frameItems hlow)).trans hcommit⟩

/-- Before the commit the handler has the machine and the ring buffer is as it was (R93, R95). -/
theorem outcomeAt_before_commit {n : Nat} (hn : n < s.commitOffset) :
    ∃ u, HandlerPoint.outcomeAt ⟨s.dispatched, rxItems s.cfg⟩ (s.now + n) = .next u ∧ u.hActive = true ∧ u.gie = false ∧
      u.ring = s.ring := by
  obtain ⟨phase, hcommit⟩ := reaches_frame_commit hs hlow
  refine hcommit.waits (s.now + n) (Nat.le_add_right _ n) ?_
  rw [inFrame_now]
  exact Nat.add_lt_add_left hn s.now

/-- From the commit's cycle on the run is the one whose buffer has the byte pushed (R93). -/
theorem outcomeAt_from_commit {n : Nat} (hn : s.commitOffset ≤ n) :
    HandlerPoint.outcomeAt ⟨s.dispatched, rxItems s.cfg⟩ (s.now + n) =
      HandlerPoint.outcomeAt ⟨inFrame s.received s.commitOffset .committed s.sampledByte,
        .wait s.cfg.rxXr <| .act .leave .done⟩ (s.now + n) := by
  obtain ⟨phase, hcommit⟩ := reaches_frame_commit hs hlow
  have htail : s.dispatched.tail.toNat < s.dispatched.cfg.c := hs.dataOk.indices.2
  rw [hcommit.arrives _ (by rw [inFrame_now]; exact Nat.add_le_add_left hn s.now), HandlerPoint.outcomeAt, commitItems,
    handlerFrom_act _ _ (inFrame_commit htail _ phase _), HandlerPoint.outcomeAt, inFrame_now, inFrame_now]
  rfl

/-- Between the commit and the return the handler still has the machine (R95). -/
theorem outcomeAt_after_commit {n : Nat} (hn : s.commitOffset ≤ n) (hend : n < s.commitOffset + s.cfg.rxXr) :
    ∃ u, HandlerPoint.outcomeAt ⟨s.dispatched, rxItems s.cfg⟩ (s.now + n) = .next u ∧ u.hActive = true ∧ u.gie = false ∧
      u.ring = (s.pushed s.sampledByte).ring := by
  have hring : (inFrame s.received s.commitOffset .committed s.sampledByte).ring = (s.pushed s.sampledByte).ring :=
    inFrame_ring _ _ _ _
  rw [outcomeAt_from_commit hs hlow hn, ← hring]
  refine (reaches_frame_leave hs).waits (s.now + n) ?_ ?_
  · rw [inFrame_now]
    exact Nat.add_le_add_left hn s.now
  · rw [frameEnd_now]
    exact Nat.add_lt_add_left hend s.now

/-- The machine after a frame's run (R95). -/
theorem runSteps_frameDuration (hd : s.Dispatches) :
    runSteps s.frameDuration s = .next (State.tick { s.frameEnd with
      hPhase := .idle, gie := s.frameEnd.hSaved, hActive := false, hItems := .done }) := by
  have hnow := frameEnd_now s
  calc runSteps s.frameDuration s
    _ = HandlerPoint.outcomeAt ⟨s.dispatched, rxItems s.cfg⟩ (s.now + (s.commitOffset + s.cfg.rxXr)) :=
      runSteps_eq_outcomeAt hs hd _
    _ = HandlerPoint.outcomeAt ⟨s.frameEnd, .act .leave .done⟩ (s.now + (s.commitOffset + s.cfg.rxXr)) :=
      (outcomeAt_from_commit hs hlow (Nat.le_add_right _ _)).trans ((reaches_frame_leave hs).arrives _ hnow.le)
    _ = _ := outcomeAt_leave hnow

end

/-- The end of a frame's run, as an update of the state of its dispatch. -/
theorem frameEnd_eq (s : State) : s.frameEnd = { s with
    now := s.now + (s.commitOffset + s.cfg.rxXr), pending := s.frameEnd.pending
    rxPrev := s.rxAt (s.now + (s.commitOffset + s.cfg.rxXr)), hSaved := s.gie, gie := false, hActive := true
    hPhase := .committed, hItems := rxItems s.cfg, hLvl := false, acc := s.sampledByte
    buf := if s.isFull then s.buf else s.buf.write s.tail.toNat s.sampledByte
    tail := if s.isFull then s.tail else nextIndex s.cfg.c s.tail
    ovf := s.ovf || s.isFull } := by
  rw [State.frameEnd, State.received, inFrame_pushed, State.dispatched, inFrame_dispatch]
  rfl

/-- Settles O56, by the points of the run of a low check: its commit and its return. -/
theorem receivedFrameIsCommitted : Obligations.ReceivedFrameIsCommitted := by
  intro s hs hidle hdispatch hlow
  have hd : s.Dispatches := ⟨hidle, hdispatch⟩
  refine ⟨fun n hpos hn => ?_, _, runSteps_frameDuration hs hlow hd, ?_⟩
  · obtain ⟨n, rfl⟩ := Nat.exists_eq_add_one.2 hpos
    rw [runSteps_eq_outcomeAt hs hd]
    rcases lt_or_ge n s.commitOffset with hbefore | hafter
    · obtain ⟨u, hu, hactive, hgie, hring⟩ := outcomeAt_before_commit hs hlow hbefore
      simp only [State.ring, Prod.mk.injEq] at hring
      obtain ⟨-, -, htail, hbuf, hovf⟩ := hring
      exact ⟨u, hu, hactive, hgie, fun _ => ⟨htail, hbuf, hovf⟩, fun hlt => absurd hlt (by omega)⟩
    · obtain ⟨u, hu, hactive, hgie, hring⟩ := outcomeAt_after_commit hs hlow hafter (Nat.lt_of_add_lt_add_right hn)
      simp only [State.ring, Prod.mk.injEq] at hring
      obtain ⟨-, -, htail, -, hovf⟩ := hring
      exact ⟨u, hu, hactive, hgie, fun hle => absurd hle (by omega), fun _ => ⟨hovf, htail⟩⟩
  · obtain ⟨hphase, hitems⟩ := hs.idle hidle
    obtain ⟨-, hgie⟩ := hd.armed_gie
    have hend : s.now + (s.commitOffset + s.cfg.rxXr) + 1 = s.now + s.frameDuration := rfl
    rw [frameEnd_eq]
    simp [State.tick, hend.symm, hphase, hitems, hgie, hidle]

/-! ### The pin changes of the run -/

/-- Settles O57: the run's waits latch every change after the dispatch, and no other item touches `pending`. -/
theorem changesDuringTheRunArePending : Obligations.ChangesDuringTheRunArePending := by
  intro s t hs hidle hdispatch hlow hrun
  have hd : s.Dispatches := ⟨hidle, hdispatch⟩
  cases (runSteps_frameDuration hs hlow hd).symm.trans hrun
  have hlatched := coast_pending (s.commitOffset + s.cfg.rxXr) s.received hd.armed_gie.1 rfl
  have hnone : s.received.pending = false := rfl
  rw [hnone] at hlatched
  refine hlatched.trans ?_
  simp only [Bool.false_eq_true, false_or]
  exact exists_congr fun c => and_congr_right fun _ => and_congr_left fun _ => Nat.lt_succ_iff.symm

/-! ### The byte received -/

/-- An occupied slot is not the slot at `tail`. -/
theorem slotAt_ne_tail {s : State} (h : s.IndicesInRange) {k : Nat} (hk : k < s.count) : s.slotAt k ≠ s.tail.toNat := by
  rw [count_eq h] at hk
  obtain ⟨hhead, htail⟩ := h
  rw [State.slotAt, mod_of_lt_two_mul (by split at hk <;> omega)]
  split at hk <;> split <;> omega

/-- A push with room appends the byte to the queue the buffer holds (43_ring_buffer.md R101, R109). -/
theorem contents_store {s : State} (hs : s.DataOk) (hroom : s.isFull = false) (v : Byte) :
    (s.advanceTail.withBuf (s.buf.write s.tail.toNat v)).contents = s.contents ++ [v] := by
  have hcount : (s.advanceTail.withBuf (s.buf.write s.tail.toNat v)).count = s.count + 1 := count_advanceTail hs hroom
  have hread := Memory.read_write hs.canonical s.tail.toNat v
  rw [State.contents, State.contents, hcount, List.range_succ, List.map_append]
  congr 1
  · refine List.map_congr_left fun k hk => ?_
    exact (hread _).trans (if_neg (slotAt_ne_tail hs.indices (List.mem_range.1 hk)))
  · exact congrArg (fun b => [b]) ((hread _).trans (if_pos (slotAt_count hs.indices)))

/-- The samples of a frame whose slots they fall in are its byte (R97). -/
theorem sampledByte_eq_of_frame {s : State} {x : Byte} {a : Nat → Nat}
    (hline : ∀ j t, j < 10 → a j ≤ t → t < a (j + 1) → s.rxAt t = frameLevel x j)
    (hslots : ∀ i, i < 8 → a (i + 1) ≤ s.now + s.sampleOffset i ∧ s.now + s.sampleOffset i < a (i + 2)) :
    s.sampledByte = x := by
  refine BitVec.eq_of_getLsbD_eq fun i hi => ?_
  obtain ⟨hle, hlt⟩ := hslots i hi
  rw [sampledByteHoldsTheLevels s i hi, hline (i + 1) _ (by omega) hle hlt, frameLevel, if_neg (by omega),
    if_pos (by omega), Nat.add_sub_cancel]

/-- Settles O58: the run of O56 with the byte sampled the frame's. -/
theorem frameOnTheLineIsReceived : Obligations.FrameOnTheLineIsReceived := by
  intro s x a hs hidle hdispatch hroom hlow hline hslots
  have hdata := hs.dataOk
  have hbyte := sampledByte_eq_of_frame hline hslots
  obtain ⟨-, t, hrun, ht⟩ := receivedFrameIsCommitted s hs hidle hdispatch hlow
  simp only [hroom, hbyte, Bool.false_eq_true, if_false, Bool.or_false] at ht
  refine ⟨t, hrun, ?_, ?_, ?_, ?_⟩ <;> rw [ht]
  · exact (Memory.read_write hdata.canonical _ x _).trans (if_pos rfl)
  · exact contents_store hdata hroom x

end Sys2Proof.Machine
end

section
/-! The ring buffer (43_ring_buffer.md): its four operations with the indices in the buffer (R99 to R102), the FIFO queue
they work on (R109), and its capacity (R110). -/

namespace Sys2Proof.Machine

/-! ### The operations -/

/-- The occupancy is a remainder modulo `C` (R99). -/
theorem count_lt {s : State} (h : 0 < s.cfg.c) : s.count < s.cfg.c := by
  have hlt := Int.emod_lt_of_pos ((s.tail.toNat : Int) - s.head.toNat) (Int.natCast_pos.2 h)
  rw [State.count, occupancy]
  omega

/-- R100, with `head` in the buffer. -/
theorem pop_of_inside {s : State} (h : s.head.toNat < s.cfg.c) :
    s.pop = .ok (if s.isEmpty then (none, s) else (some (s.buf.read s.head.toNat), s.advanceHead)) := by
  cases hempty : s.isEmpty <;> simp [State.pop, State.readSlot, State.advanceHead, hempty, h]

/-- R102, with `head` in the buffer. -/
theorem peekFront_of_inside {s : State} (h : s.head.toNat < s.cfg.c) :
    s.peekFront = .ok (if s.isEmpty then none else some (s.buf.read s.head.toNat)) := by
  cases hempty : s.isEmpty <;> simp [State.peekFront, State.readSlot, hempty, h]

/-- R101, with `tail` in the buffer. -/
theorem push_of_inside {s : State} (h : s.tail.toNat < s.cfg.c) (v : Byte) :
    s.push v = .ok (if s.isFull then (false, { s with ovf := true })
      else (true, s.advanceTail.withBuf (s.buf.write s.tail.toNat v))) := by
  cases hfull : s.isFull <;> simp [State.push, State.writeSlot, State.advanceTail, State.withBuf, hfull, h]

/-- Settles O23: each operation's two cases, by the flag that tells them apart (20_memory.md R43). -/
theorem ringBufferOperations : Obligations.RingBufferOperations := by
  rintro s ⟨hhead, htail⟩
  have hpop := pop_of_inside hhead
  have hpeek := peekFront_of_inside hhead
  have hpush := push_of_inside htail
  simp only [State.isEmpty, decide_eq_true_eq] at hpop hpeek
  simp only [State.isFull, decide_eq_true_eq] at hpush
  exact ⟨rfl, Nat.le_pred_of_lt (count_lt (by omega)), hpop, hpeek, hpush⟩

/-! ### The queue -/

theorem contents_length (s : State) : s.contents.length = s.count := by
  rw [State.contents, List.length_map, List.length_range]

theorem contents_eq_nil_of_empty {s : State} (h : s.isEmpty = true) : s.contents = [] := by
  rw [← List.length_eq_zero_iff, contents_length, State.count, of_decide_eq_true h, occupancy_self]

/-- The oldest byte is the one at `head`, and the others are the queue with `head` advanced (R100). -/
theorem contents_eq_cons {s : State} (hs : s.DataOk) (hempty : s.isEmpty = false) :
    s.contents = s.buf.read s.head.toNat :: s.advanceHead.contents := by
  rw [State.contents, ← count_advanceHead hs hempty, List.range_succ_eq_map, List.map_cons, List.map_map,
    slotAt_zero hs.indices, State.contents]
  refine congrArg (_ :: ·) (List.map_congr_left fun k _ => ?_)
  rw [slotAt_advanceHead hs]
  rfl

/-- The buffer is full with `C - 1` bytes in it and not before (20_memory.md R43). -/
theorem isFull_eq_decide {s : State} (hs : s.DataOk) : s.isFull = decide (s.count = s.cfg.c - 1) := by
  obtain ⟨hlow, hhigh⟩ := hs.capacity
  rw [Bool.eq_iff_iff, decide_eq_true_eq, isFull_iff_count hlow hhigh hs.indices]

/-- Settles O26: taking is at the head of the contents and storing at their end, with room up to `C - 1` bytes. -/
theorem ringBufferRefinesAQueue : Obligations.RingBufferRefinesAQueue := by
  intro s hs
  have hdata := hs.dataOk
  obtain ⟨hhead, htail⟩ := hdata.indices
  rw [pop_of_inside hhead, peekFront_of_inside hhead, contents_length]
  refine ⟨rfl, fun hnil => ?_, fun v rest hcons => ?_, fun v hroom => ?_, fun v hcount => ?_⟩
  · cases hempty : s.isEmpty with
    | true => exact ⟨rfl, rfl⟩
    | false => rw [contents_eq_cons hdata hempty] at hnil; cases hnil
  · cases hempty : s.isEmpty with
    | true => rw [contents_eq_nil_of_empty hempty] at hcons; cases hcons
    | false =>
      rw [contents_eq_cons hdata hempty] at hcons
      cases hcons
      exact ⟨rfl, s.advanceHead, rfl, rfl⟩
  · have hnotFull : s.isFull = false := by rw [isFull_eq_decide hdata, decide_eq_false hroom.ne]
    rw [push_of_inside htail, hnotFull]
    exact ⟨_, rfl, contents_store hdata hnotFull v⟩
  · have hfull : s.isFull = true := by rw [isFull_eq_decide hdata, decide_eq_true hcount]
    rw [push_of_inside htail, hfull]
    rfl

/-! ### The capacity -/

/-- A push with room keeps the clauses on the registers and the slots. -/
theorem State.DataOk.store {s : State} (hs : s.DataOk) (v : Byte) :
    (s.advanceTail.withBuf (s.buf.write s.tail.toNat v)).DataOk := by
  have ⟨hwf, ⟨hhead, htail⟩, ⟨hcanonical, hwithin⟩, hrow⟩ := hs
  exact ⟨hwf, ⟨hhead, hs.nextIndex_lt s.tail⟩,
    ⟨Memory.wf_write _ v hcanonical, Memory.within_write hwithin htail⟩, hrow⟩

/-- Pushes with room for them all append their bytes in order and leave `ovf` (R109). -/
theorem pushAll_of_room (vs : List Byte) {s : State} (hs : s.DataOk) (hroom : s.count + vs.length ≤ s.cfg.c - 1) :
    ∃ t, s.pushAll vs = .ok t ∧ t.DataOk ∧ t.cfg = s.cfg ∧ t.ovf = s.ovf ∧ t.contents = s.contents ++ vs := by
  induction vs generalizing s with
  | nil => exact ⟨s, rfl, hs, rfl, rfl, (List.append_nil _).symm⟩
  | cons v rest ih =>
    rw [List.length_cons] at hroom
    have hnotFull : s.isFull = false := by rw [isFull_eq_decide hs, decide_eq_false (by omega)]
    have hpush : s.push v = .ok (true, s.advanceTail.withBuf (s.buf.write s.tail.toNat v)) := by
      rw [push_of_inside hs.indices.2, hnotFull]
      rfl
    have hcount : (s.advanceTail.withBuf (s.buf.write s.tail.toNat v)).count = s.count + 1 :=
      count_advanceTail hs hnotFull
    have hrest : s.count + 1 + rest.length ≤ s.cfg.c - 1 := by omega
    rw [← hcount] at hrest
    obtain ⟨t, hrun, hdata, hcfg, hovf, hcontents⟩ := ih (hs.store v) hrest
    refine ⟨t, ?_, hdata, hcfg, hovf, ?_⟩
    · rw [State.pushAll, hpush]
      exact hrun
    · rw [hcontents, contents_store hs hnotFull, List.append_assoc, List.singleton_append]

/-- Settles O27: the empty buffer has room for `C - 1` bytes, and with those in it it is full. -/
theorem capacityIsOneLessThanTheSlots : Obligations.CapacityIsOneLessThanTheSlots := by
  intro s vs hs hempty hlength
  have hnil := contents_eq_nil_of_empty (s := s) (decide_eq_true hempty)
  have hzero : s.count = 0 := by rw [← contents_length, hnil, List.length_nil]
  obtain ⟨t, hrun, hdata, hcfg, hovf, hcontents⟩ := pushAll_of_room vs hs.dataOk (by omega)
  rw [hnil, List.nil_append] at hcontents
  have hcount : t.count = s.cfg.c - 1 := by rw [← contents_length, hcontents, hlength]
  have hfull : t.isFull = true := by rw [isFull_eq_decide hdata, hcfg, decide_eq_true hcount]
  refine ⟨t, hrun, hcontents, hcount, hovf, fun v => ?_⟩
  rw [push_of_inside hdata.indices.2, hfull]
  rfl

end Sys2Proof.Machine
end

section
/-! The commands on the ring buffer (43_ring_buffer.md R103 to R108): the response of AVAILABLE, READ, PEEK and OVERFLOWED,
what they and FLUSH write, and the run in which OVERFLOWED loses an overflow. -/

namespace Sys2Proof.Machine

section
variable {s t u : State} {i : Instr} {a : FgAct} {n : Nat}

/-! ### A command whose last action responds -/

/-- A response given by a command's last action is the block's response from that cycle on (10_state.md R33). -/
theorem fgFrom_done_of_respond (s : State) (v : Response) (n : Nat) :
    fgFrom .done (s.respond v) n = .next { s with resp := some v, response := none, fgItems := .done } := by
  rw [fgFrom_done, complete_of_response (v := v) rfl rfl]
  rfl

/-- A command whose one action responds, from the cycle `CALL_PRE` after its fetch on. -/
theorem runCommand_of_respond {v : Response} (hitems : itemsOf s.cfg i = .wait s.cfg.callPre (.act a .done))
    (hact : runFgAct a { s with response := none } = .ok (u.respond v)) (m : Nat) :
    s.runCommand i (s.cfg.callPre + m) = .next { u with resp := some v, response := none, fgItems := .done } := by
  rw [runCommand_of_action hitems hact, fgFrom_done_of_respond]

/-- At any cycle a command of one action has written nothing yet, or what that action writes and its response. -/
theorem runCommand_one_action_cases (hitems : itemsOf s.cfg i = .wait s.cfg.callPre (.act a .done))
    (h : s.runCommand i n = .next t) :
    t = { s with response := none, fgItems := t.fgItems } ∨
      ∃ u, runFgAct a { s with response := none } = .ok u ∧
        t = { u with resp := t.resp, response := t.response, fgItems := t.fgItems } := by
  rw [runCommand_eq_fgFrom, hitems, fgFrom_wait] at h
  split at h
  · rw [complete_of_none (by rfl)] at h
    cases h
    exact .inl rfl
  · cases hact : runFgAct a { s with response := none } with
    | error f => rw [fgFrom_act_error _ _ hact] at h; cases h
    | ok u =>
      rw [fgFrom_act _ _ hact, fgFrom_done, complete_eq] at h
      cases h
      exact .inr ⟨u, rfl, by rw [complete_eq]⟩

/-! ### AVAILABLE, READ and PEEK -/

theorem runCommand_available (s : State) (m : Nat) :
    s.runCommand .available (s.cfg.callPre + m) =
      .next { s with resp := some (Response.ofNat s.count), response := none, fgItems := .done } :=
  runCommand_of_respond (u := s) rfl rfl m

/-- READ's action on an empty buffer (R104). -/
theorem runFgAct_respondPop_of_empty (h : s.head = s.tail) : runFgAct .respondPop s = .ok (s.respond 0xFFFF) := by
  rw [runFgAct, State.respondPop, State.pop, State.isEmpty, decide_eq_true h]
  rfl

/-- READ's action on a buffer that is not empty: the response is the byte's number (R104, 30_encoding.md R67). -/
theorem runFgAct_respondPop_of_nonempty (hhead : s.head.toNat < s.cfg.c) (h : s.head ≠ s.tail) :
    runFgAct .respondPop s = .ok (s.advanceHead.respond (BitVec.ofNat 16 (s.buf.read s.head.toNat).toNat)) := by
  rw [runFgAct, respondPop_of_inside hhead, State.isEmpty, decide_eq_false h, BitVec.ofNat_toNat]
  rfl

/-- PEEK's action (R105). -/
theorem runFgAct_respondPeek (hhead : s.head.toNat < s.cfg.c) :
    runFgAct .respondPeek s = .ok (s.respond
      (if s.head = s.tail then 0xFFFF else BitVec.ofNat 16 (s.buf.read s.head.toNat).toNat)) := by
  rw [runFgAct, respondPeek_of_inside hhead, BitVec.ofNat_toNat]
  by_cases h : s.head = s.tail
  · rw [State.isEmpty, decide_eq_true h, if_pos h]
    rfl
  · rw [State.isEmpty, decide_eq_false h, if_neg h]
    rfl

/-! ### OVERFLOWED alone -/

/-- Until the clear only the read is done (R107). -/
theorem runCommand_overflowed_of_lt {m : Nat} (hm : m < s.cfg.ovfGap) :
    ∃ code, s.runCommand .overflowed (s.cfg.callPre + m) =
      .next { s with rOvf := s.ovf, response := none, fgItems := code } ∧ code.isDone = false := by
  rw [runCommand_of_action (u := { s with rOvf := s.ovf, response := none }) rfl rfl]
  exact fgFrom_during_wait hm rfl rfl

/-- The clear is `OVF_GAP` cycles after the read, and its response is what was read (R107). -/
theorem runCommand_overflowed_of_le {m : Nat} (hm : s.cfg.ovfGap ≤ m) :
    s.runCommand .overflowed (s.cfg.callPre + m) =
      .next { s with
        ovf := false, rOvf := s.ovf, resp := some (Response.ofBit s.ovf), response := none, fgItems := .done } := by
  rw [runCommand_of_action (u := { s with rOvf := s.ovf, response := none }) rfl rfl, fgFrom_wait,
    if_neg (not_lt.2 hm), fgFrom_act .done _ rfl]
  exact fgFrom_done_of_respond { s with ovf := false, rOvf := s.ovf } (Response.ofBit s.ovf) _

/-! ### Frames -/

theorem runCommand_available_frame (h : s.runCommand .available n = .next t) :
    t = { s with resp := t.resp, response := t.response, fgItems := t.fgItems } := by
  rcases runCommand_callPre_cases h nofun nofun nofun with hwaiting | ⟨m, hm⟩
  · rw [hwaiting]
  · cases (runCommand_available s m).symm.trans hm
    rfl

theorem runCommand_peek_frame (h : s.runCommand .peek n = .next t) :
    t = { s with resp := t.resp, response := t.response, fgItems := t.fgItems } := by
  rcases runCommand_one_action_cases rfl h with hwaiting | ⟨u, hu, ht⟩
  · rw [hwaiting]
  · rcases respondPeek_cases hu with ⟨-, rfl⟩ | ⟨-, -, rfl⟩ <;> rw [ht]

theorem runCommand_read_frame (h : s.runCommand .read n = .next t) :
    t = { s with head := t.head, resp := t.resp, response := t.response, fgItems := t.fgItems } := by
  rcases runCommand_one_action_cases rfl h with hwaiting | ⟨u, hu, ht⟩
  · rw [hwaiting]
  · rcases respondPop_cases hu with ⟨-, rfl⟩ | ⟨-, -, rfl⟩ <;> rw [ht]

theorem runCommand_overflowed_frame (h : s.runCommand .overflowed n = .next t) :
    t = { s with ovf := t.ovf, rOvf := t.rOvf, resp := t.resp, response := t.response, fgItems := t.fgItems } := by
  rcases runCommand_callPre_cases h nofun nofun nofun with hwaiting | ⟨m, hm⟩
  · rw [hwaiting]
  · rcases lt_or_ge m s.cfg.ovfGap with hbefore | hafter
    · obtain ⟨code, hrun, -⟩ := runCommand_overflowed_of_lt hbefore
      cases hrun.symm.trans hm
      rfl
    · cases (runCommand_overflowed_of_le hafter).symm.trans hm
      rfl

end

/-- Settles O33: the word decodes by evaluation, and the one action is reached at `CALL_PRE`. -/
theorem flushResetsTheIndices : Obligations.FlushResetsTheIndices :=
  ⟨rfl, fun s => exec_next_of_runCommand (runCommand_flush s 0)⟩

/-- Settles O34: the response is the occupancy, a remainder modulo `C`. -/
theorem availableRespondsTheOccupancy : Obligations.AvailableRespondsTheOccupancy :=
  ⟨rfl, fun s => ⟨fun hc => Nat.le_pred_of_lt (count_lt hc), exec_next_of_runCommand (runCommand_available s 0)⟩⟩

/-- Settles O35, by READ's action on an empty buffer and on one that is not. -/
theorem readPopsAByte : Obligations.ReadPopsAByte := by
  refine ⟨rfl, fun s hhead => exec_next_of_runCommand ?_⟩
  by_cases hempty : s.head = s.tail
  · rw [if_pos hempty]
    exact runCommand_of_respond (u := s) rfl (runFgAct_respondPop_of_empty (s := { s with response := none }) hempty) 0
  · rw [if_neg hempty]
    exact runCommand_of_respond (u := s.advanceHead) rfl
      (runFgAct_respondPop_of_nonempty (s := { s with response := none }) hhead hempty) 0

/-- Settles O36, by PEEK's action. -/
theorem peekLeavesTheByte : Obligations.PeekLeavesTheByte :=
  ⟨rfl, fun s hhead => exec_next_of_runCommand
    (runCommand_of_respond (u := s) rfl (runFgAct_respondPeek (s := { s with response := none }) hhead) 0)⟩

/-- Settles O37: a cycle from `CALL_PRE` on lies before the clear or after it. -/
theorem overflowedReportsAndClears : Obligations.OverflowedReportsAndClears := by
  refine ⟨rfl, fun s => ?_⟩
  obtain ⟨t, hexec, hclear⟩ := exec_next_of_runCommand (runCommand_overflowed_of_le (s := s) le_rfl)
  refine ⟨t, hexec, fun n hfirst hlast => ?_, hclear⟩
  obtain ⟨m, rfl⟩ := Nat.exists_eq_add_of_le hfirst
  obtain ⟨code, hrun, hcode⟩ := runCommand_overflowed_of_lt (s := s) (m := m) (by omega)
  exact ⟨_, (fgCycles_of_exec hexec _).trans hrun, hcode, rfl⟩

/-- Settles O45, by the four frames. -/
theorem accessorsFrame : Obligations.AccessorsFrame := fun _ _ _ =>
  ⟨Or.rec runCommand_available_frame runCommand_peek_frame,
    fun h => ⟨runCommand_read_frame h, runCommand_buf_read h⟩, runCommand_overflowed_frame⟩

/-! ### The overflow report race -/

/-- A full buffer under TC with every receive delay 0, so that a handler run takes one cycle; OVERFLOWED is fetched in cycle
0, and the line falls in cycle 1 and stays low. -/
def raceStart : State :=
  { State.reset with
    line := .wave [(1, false)], stream := [0x80000000], txDelay := 7, tail := 3, armed := true, gie := true }

/-- After cycle 0: `ovf` is read as 0, and the clear is the next item. -/
def raceRead : State := { raceStart with now := 1, cp := 1, fgItems := .act .clearOverflow .done }

/-- After cycle 1: the handler has been dispatched, has found the buffer full and has returned. -/
def raceCommitted : State := { raceRead with now := 2, rxPrev := false, hSaved := true, ovf := true }

/-- After cycle 2: the clear has erased `ovf`, and the response is the 0 read before. -/
def raceCleared : State := { raceCommitted with now := 3, ovf := false, resp := some 0, fgItems := .done }

theorem step_raceStart : step raceStart = .next raceRead := rfl

theorem step_raceRead : step raceRead = .next raceCommitted := rfl

theorem step_raceCommitted : step raceCommitted = .next raceCleared := rfl

/-- Settles O38, by the three steps from `raceStart`. -/
theorem overflowReportCanBeLost : Obligations.OverflowReportCanBeLost :=
  ⟨raceStart, raceRead, raceCommitted, raceCleared, ⟨by decide, ⟨by decide, rfl, 0x80000000, rfl, rfl⟩, rfl, rfl⟩,
    ⟨step_raceStart, rfl, rfl, rfl, rfl⟩, ⟨rfl, by decide, step_raceRead, rfl, rfl⟩,
    ⟨by decide, step_raceCommitted, rfl, rfl, rfl⟩⟩

end Sys2Proof.Machine
end

section
/-! WRITE alone (44_transmit.md): without a configuration (R113), with a start count that does not fit (R116), and from its
stop level on (R111, R112); what it and the harness words write (30_encoding.md R68); and the round trip from one block to
another (R118). -/

namespace Sys2Proof.Machine

/-! ### WRITE that drives no frame -/

theorem fgHolds_unconfigured (s : State) : fgHolds .unconfigured s = decide (s.txDelay = 0) := by
  rw [fgHolds, State.isConfigured, decide_not, Bool.not_not]

theorem fgHolds_startTooLong (s : State) :
    fgHolds .startTooLong s = decide (65535 < s.txDelay.toNat + s.cfg.startAdj) := rfl

section
variable {s : State} (b : Byte)

/-- WRITE's first test finds no configuration, and its response is 0 (R113). -/
theorem runCommand_write_of_unconfigured (hunconfigured : s.txDelay = 0) (m : Nat) :
    s.runCommand (.write b) (s.cfg.callPre + m) = .next { s with resp := some 0, response := none, fgItems := .done } := by
  rw [runCommand_eq_fgFrom, itemsOf, itemsWrite, fgFrom_wait, if_neg (by omega), fgFrom_test, fgHolds_unconfigured,
    if_pos (decide_eq_true hunconfigured), fgFrom_act .done _ rfl]
  exact fgFrom_done_of_respond s 0 _

/-- WRITE's second test finds a start count that does not fit (R116). -/
theorem runCommand_write_of_startTooLong (hconfigured : s.txDelay ≠ 0)
    (hlong : 65535 < s.txDelay.toNat + s.cfg.startAdj) (m : Nat) :
    s.runCommand (.write b) (s.cfg.callPre + m) = .fault .delayRange := by
  rw [runCommand_eq_fgFrom, itemsOf, itemsWrite, fgFrom_wait, if_neg (by omega), fgFrom_test, fgHolds_unconfigured,
    if_neg (by simpa using hconfigured), fgFrom_test, fgHolds_startTooLong, if_pos (decide_eq_true hlong), fgFrom_raise]

end

/-- Settles O40. -/
theorem unconfiguredWriteRespondsZero : Obligations.UnconfiguredWriteRespondsZero := fun _ b hunconfigured =>
  exec_next_of_runCommand (runCommand_write_of_unconfigured b hunconfigured 0)

/-- Settles O41: the second test raises the fault, and until the first nothing is written. -/
theorem startDelayOutOfRangeFaults : Obligations.StartDelayOutOfRangeFaults := by
  intro s b hconfigured hlong
  refine ⟨runCommand_write_of_startTooLong b hconfigured hlong 0, fun n hn => ?_⟩
  obtain ⟨t, hrun, ht, -⟩ := noEffectBeforeTheFirstAction (.write b) s n nofun nofun nofun hn
  exact ⟨t, hrun, by rw [ht], by rw [ht]⟩

/-! ### The stop level -/

/-- WRITE from its stop level on: the line idle, `gie` given back (R111). -/
def State.atStopLevel (s : State) : State := { s with tx := true, sGie := s.gie, response := none }

/-- WRITE's list after the action that opens the stop level (R111). -/
def stopLevelItems (p : Params) : FgCode := .delay .txDelay <| .wait p.txPost <| .act (.respond 1) .done

theorem atStopLevel_delayCycles (s : State) (d : TickSource) : s.atStopLevel.delayCycles d = s.delayCycles d := by
  cases d <;> rfl

theorem slotStart_stop (s : State) (b : Byte) :
    s.slotStart b 9 = s.slotStart b 8 + (s.bitCycles + s.cfg.txStop) := rfl

/-- The last slot of the frame ends in the stop level. -/
theorem fgFrom_last_slot_end (s : State) (b : Byte) (level : Bit) (n : Nat) :
    fgFrom (slotItems s.cfg b 8) (s.driving level) (s.bitCycles + s.cfg.txStop + n) =
      fgFrom (stopLevelItems s.cfg) s.atStopLevel n := by
  have hitems : slotItems s.cfg b 8 =
      .delay .txDelay (.wait s.cfg.txStop (.act .stopBit (stopLevelItems s.cfg))) := rfl
  rw [hitems, fgFrom_delay, driving_delayCycles, ← State.bitCycles, fgFrom_wait, if_neg (by omega), fgFrom_wait,
    if_neg (by omega), fgFrom_act (t := s.atStopLevel) _ _ rfl, Nat.add_assoc, Nat.add_sub_cancel_left,
    Nat.add_sub_cancel_left]

section
variable {s : State} (n : Nat)

/-- For a bit's length and `TX_POST` the stop level stands and WRITE is not complete (R111). -/
theorem fgFrom_stopLevel_of_lt (hn : n < s.bitCycles + s.cfg.txPost) :
    ∃ code, fgFrom (stopLevelItems s.cfg) s.atStopLevel n = .next { s.atStopLevel with fgItems := code } ∧
      code.isDone = false := by
  rw [stopLevelItems, fgFrom_delay, atStopLevel_delayCycles, ← State.bitCycles]
  by_cases hdelay : n < s.bitCycles
  · exact fgFrom_during_wait hdelay rfl rfl
  · rw [fgFrom_wait, if_neg hdelay]
    exact fgFrom_during_wait (by omega) rfl rfl

/-- After it WRITE is complete with response 1 (R111). -/
theorem fgFrom_stopLevel_of_le (hn : s.bitCycles + s.cfg.txPost ≤ n) :
    fgFrom (stopLevelItems s.cfg) s.atStopLevel n = .next { s.atStopLevel with resp := some 1, fgItems := .done } := by
  rw [stopLevelItems, fgFrom_delay, atStopLevel_delayCycles, ← State.bitCycles, fgFrom_wait, if_neg (by omega),
    fgFrom_wait, if_neg (by omega), fgFrom_act .done _ rfl]
  exact fgFrom_done_of_respond s.atStopLevel 1 _

end

section
variable {s : State} (b : Byte) (hconfigured : s.txDelay ≠ 0) (hfits : s.txDelay.toNat + s.cfg.startAdj ≤ 65535) (n : Nat)
include hconfigured hfits

/-- A configured WRITE reaches its stop level at the cycle R112 gives slot 9. -/
theorem runCommand_write_eq_stopLevel :
    s.runCommand (.write b) (s.cfg.callPre + (s.slotStart b 9 + n)) = fgFrom (stopLevelItems s.cfg) s.atStopLevel n := by
  rw [runCommand_write_eq_fgFrom b hconfigured hfits, slotStart_stop, Nat.add_assoc, fgFrom_slotStart s b le_rfl,
    fgFrom_last_slot_end]

/-- From its stop level on, a configured WRITE writes no more than its response. -/
theorem runCommand_write_at_stopLevel :
    ∃ resp code, s.runCommand (.write b) (s.cfg.callPre + (s.slotStart b 9 + n)) =
      .next { s.atStopLevel with resp := resp, fgItems := code } := by
  rw [runCommand_write_eq_stopLevel b hconfigured hfits]
  rcases lt_or_ge n (s.bitCycles + s.cfg.txPost) with hstands | hcomplete
  · obtain ⟨code, hrun, -⟩ := fgFrom_stopLevel_of_lt n hstands
    exact ⟨s.resp, code, hrun⟩
  · exact ⟨some 1, .done, fgFrom_stopLevel_of_le n hcomplete⟩

end

/-- Before the slot after data bit `j` come the start count's delay, `j` bit delays, and the bits' own cycles (R112). -/
theorem slotStart_after_dataBit (s : State) (b : Byte) {j : Nat} (hj : j < 8) :
    s.slotStart b (j + 1) = s.delayCycles .startBit +
      ((bitIndices.take (j + 1)).map fun i => s.cfg.txBit (b.bit i)).sum + j * s.bitCycles := by
  induction j with
  | zero => rw [Nat.zero_mul]; exact Nat.zero_add _
  | succ j ih =>
    have htake : bitIndices.take (j + 1 + 1) = bitIndices.take (j + 1) ++ [⟨j + 1, hj⟩] := by
      have hall : ∀ i : Fin 8, bitIndices.take (i.val + 1) = bitIndices.take i.val ++ [i] := by decide
      exact hall ⟨j + 1, hj⟩
    have hlength : s.slotLength b (j + 1) = s.bitCycles + s.cfg.txBit (b.bit ⟨j + 1, hj⟩) := if_pos hj
    rw [State.slotStart, ih (by omega), hlength, htake, List.map_append, List.sum_append, List.map_singleton,
      List.sum_singleton, Nat.succ_mul]
    omega

/-- The slots of the frame add up to R147's row for WRITE, but for `CALL_PRE` and the stop level. -/
theorem slotStart_stop_eq_sum (s : State) (b : Byte) :
    s.slotStart b 9 =
      s.delayCycles .startBit + (bitIndices.map fun i => s.cfg.txBit (b.bit i)).sum + 8 * s.bitCycles + s.cfg.txStop := by
  have hdata : s.slotStart b 8 =
      s.delayCycles .startBit + (bitIndices.map fun i => s.cfg.txBit (b.bit i)).sum + 7 * s.bitCycles :=
    slotStart_after_dataBit s b (by decide)
  rw [slotStart_stop, hdata]
  omega

theorem duration_write {s : State} (b : Byte) (hconfigured : s.txDelay ≠ 0) :
    s.duration (.write b) = s.cfg.callPre + (s.slotStart b 9 + (s.bitCycles + s.cfg.txPost)) + 1 := by
  have hif : s.isConfigured = true := decide_eq_true hconfigured
  rw [State.duration, if_pos hif, slotStart_stop_eq_sum]
  omega

/-- Settles O42: at R147's last cycle the stop level has stood its time. -/
theorem configuredWriteRespondsOne : Obligations.ConfiguredWriteRespondsOne := by
  intro s b hconfigured hfits
  rw [duration_write b hconfigured, Nat.add_sub_cancel]
  exact exec_next_of_runCommand
    ((runCommand_write_eq_stopLevel b hconfigured hfits _).trans (fgFrom_stopLevel_of_le _ le_rfl))

/-- Settles O43: the slots 0 to 8 of the frame, and the stop level. -/
theorem writeDrivesTheFrame : Obligations.WriteDrivesTheFrame := by
  intro s b j n hconfigured hfits hj hfrom hto _
  rcases Nat.lt_or_eq_of_le hj with hslot | rfl
  · obtain ⟨code, hrun, -⟩ := runCommand_write_in_slot hconfigured hfits hslot hfrom (hto hslot)
    exact ⟨_, hrun, rfl, (if_pos hslot).symm⟩
  · obtain ⟨k, rfl⟩ := Nat.exists_eq_add_of_le hfrom
    obtain ⟨resp, code, hrun⟩ := runCommand_write_at_stopLevel b hconfigured hfits k
    exact ⟨_, hrun, rfl, rfl⟩

/-! ### Frames -/

/-- SEI and CLI are complete in their fetch cycle (30_encoding.md R68). -/
theorem runCommand_sei (s : State) (n : Nat) :
    s.runCommand .sei n = .next { s with gie := true, response := none, fgItems := .done } := by
  rw [runCommand_eq_fgFrom, itemsOf, itemsSei, fgFrom_act .done n rfl]
  exact fgFrom_done_of_none rfl n

theorem runCommand_cli (s : State) (n : Nat) :
    s.runCommand .cli n = .next { s with gie := false, response := none, fgItems := .done } := by
  rw [runCommand_eq_fgFrom, itemsOf, itemsCli, fgFrom_act .done n rfl]
  exact fgFrom_done_of_none rfl n

section
variable {s t : State} {n : Nat}

/-- WRITE writes the line, `gie` with its local copy, and its response. -/
theorem runCommand_write_frame {b : Byte} (h : s.runCommand (.write b) n = .next t) :
    t = { s with
      tx := t.tx, gie := t.gie, sGie := t.sGie, resp := t.resp, response := t.response, fgItems := t.fgItems } := by
  rcases runCommand_callPre_cases h nofun nofun nofun with hwaiting | ⟨m, hm⟩
  · rw [hwaiting]
  by_cases hconfigured : s.txDelay = 0
  · cases (runCommand_write_of_unconfigured b hconfigured m).symm.trans hm
    rfl
  rcases lt_or_ge 65535 (s.txDelay.toNat + s.cfg.startAdj) with hlong | hfits
  · cases (runCommand_write_of_startTooLong b hconfigured hlong m).symm.trans hm
  rcases lt_or_ge m (s.slotStart b 9) with hframe | hstop
  · obtain ⟨j, hj, hfrom, hto⟩ := exists_slot hframe
    obtain ⟨code, hrun, -⟩ := runCommand_write_in_slot hconfigured hfits hj hfrom hto
    cases hrun.symm.trans hm
    rfl
  · obtain ⟨k, rfl⟩ := Nat.exists_eq_add_of_le hstop
    obtain ⟨resp, code, hrun⟩ := runCommand_write_at_stopLevel b hconfigured hfits k
    cases hrun.symm.trans hm
    rfl

theorem runCommand_idle_frame {k : Nat} (h : s.runCommand (.idle k) n = .next t) :
    t = { s with response := none, fgItems := t.fgItems } := by
  cases (runCommand_idle k n s).symm.trans h
  rfl

theorem runCommand_sei_frame (h : s.runCommand .sei n = .next t) :
    t = { s with gie := t.gie, response := none, fgItems := t.fgItems } := by
  cases (runCommand_sei s n).symm.trans h
  rfl

theorem runCommand_cli_frame (h : s.runCommand .cli n = .next t) :
    t = { s with gie := t.gie, response := none, fgItems := t.fgItems } := by
  cases (runCommand_cli s n).symm.trans h
  rfl

end

/-- Settles O47, by the four frames. -/
theorem transmitAndHarnessFrame : Obligations.TransmitAndHarnessFrame := fun _ _ _ _ _ =>
  ⟨fun h => ⟨runCommand_write_frame h, runCommand_buf_read h⟩, runCommand_idle_frame,
    Or.rec runCommand_sei_frame runCommand_cli_frame⟩

/-! ### The round trip -/

theorem slotStart_mono (s : State) (x : Byte) : Monotone (s.slotStart x) :=
  monotone_nat_of_le_succ fun _ => Nat.le_add_right _ _

/-- The cycle slot `j` of a sender's frame arrives in, after one cycle of wire, the start bit being driven in cycle `t0`
(R117). The stop slot is empty: R118 says of the line only what it carries up to the end of the data bits. -/
def State.arrival (a : State) (x : Byte) (t0 j : Nat) : Nat := t0 + 1 + a.slotStart x (min j 9)

theorem arrival_of_le (a : State) (x : Byte) (t0 : Nat) {j : Nat} (hj : j ≤ 9) :
    a.arrival x t0 j = t0 + 1 + a.slotStart x j := by
  rw [State.arrival, Nat.min_eq_left hj]

/-- A line that carries what WRITE drives holds each slot's level from the slot's arrival to the next (R117). -/
theorem rxAt_of_arrival {a b : State} {x : Byte} {t0 : Nat} (hconfigured : a.txDelay ≠ 0)
    (hfits : a.txDelay.toNat + a.cfg.startAdj ≤ 65535)
    (hline : ∀ n u, a.runCommand (.write x) (a.cfg.callPre + n) = .next u → n < a.slotStart x 9 →
      b.rxAt (t0 + n + 1) = u.tx)
    (j t : Nat) (hj : j < 10) (hfrom : a.arrival x t0 j ≤ t) (hto : t < a.arrival x t0 (j + 1)) :
    b.rxAt t = frameLevel x j := by
  rcases Nat.lt_or_eq_of_le (Nat.le_of_lt_succ hj) with hslot | rfl
  · rw [arrival_of_le a x t0 hslot.le] at hfrom
    rw [arrival_of_le a x t0 (j := j + 1) hslot] at hto
    obtain ⟨n, rfl⟩ : ∃ n, t = t0 + n + 1 := ⟨t - (t0 + 1), by omega⟩
    have hframe := slotStart_mono a x (show j + 1 ≤ 9 from hslot)
    obtain ⟨code, hrun, -⟩ :=
      runCommand_write_in_slot (b := x) (n := n) hconfigured hfits hslot (by omega) (by omega)
    exact hline n _ hrun (by omega)
  · exact absurd hto (Nat.not_lt_of_le hfrom)

/-- Settles O59: the frame of `x` is on the receiver's line where its samples fall (O58). -/
theorem roundTripDeliversTheByte : Obligations.RoundTripDeliversTheByte := by
  intro a b x t0 hconfigured hfits hb hidle hdispatch hroom hlow hline hslots
  obtain ⟨t, hrun, -, -, hcontents, hovf⟩ :=
    frameOnTheLineIsReceived b x (a.arrival x t0) hb hidle hdispatch hroom hlow
      (rxAt_of_arrival hconfigured hfits hline) fun i hi => by
        rw [arrival_of_le a x t0 (by omega), arrival_of_le a x t0 (by omega)]
        exact hslots i hi
  exact ⟨t, hrun, hcontents, hovf⟩

end Sys2Proof.Machine
end

section
/-! Faults, and the entry to and the return from the pin-change interrupt (60_exceptions.md R121 to R127). -/

namespace Sys2Proof.Machine

/-! ### The one fault -/

/-- With `tail` in the buffer the commit stores or drops its byte; no other action of the handler can fault (R127). -/
theorem runHandlerAct_ne_error {s : State} (hs : s.DataOk) (a : HandlerAct) (f : Fault) :
    runHandlerAct a s ≠ .error f := by
  cases a with
  | commit => rw [commit_eq_pushed hs.indices.2]; exact nofun
  | _ => exact nofun

/-- With `head` in the buffer READ and PEEK answer; no other action of a command can fault (R121). -/
theorem runFgAct_ne_error {s : State} (hs : s.DataOk) (a : FgAct) (f : Fault) : runFgAct a s ≠ .error f := by
  have hhead := hs.indices.1
  cases a with
  | respondPop => rw [runFgAct, respondPop_of_inside hhead]; exact nofun
  | respondPeek => rw [runFgAct, respondPeek_of_inside hhead]; exact nofun
  | _ => exact nofun

theorem State.InHandler.dataOk {s : State} {code : HandlerCode} (h : s.InHandler code) : s.DataOk := by
  obtain ⟨hdata, -⟩ | ⟨hdata, -⟩ := h <;> exact hdata

/-- A list that ends in its return has no raise. -/
theorem not_inHandler_raise (s : State) (f : Fault) : ¬ s.InHandler (.raise f) := by
  rintro (⟨-, -, -, -, hreturn, -⟩ | ⟨-, -, -, hdone⟩)
  · cases hreturn
  · cases hdone

/-- The handler's cycle raises no fault (R127): none of its actions does, and its list has no raise. -/
theorem handlerCycle_ne_fault {s : State} (hs : s.Inv) (f : Fault) : s.handlerStart.advanceHandler ≠ .fault f := by
  intro h
  rcases inHandler_handsOn.advance_error (handlerStart_inHandler hs) (advanceHandler_eq_fault h) with
    ⟨t, a, rest, ht, herror⟩ | ⟨t, ht⟩
  · exact runHandlerAct_ne_error ht.dataOk a f herror
  · exact not_inHandler_raise t f ht

/-- The foreground's cycle faults only at the raise that `raisesGuarded` allows (R116, R121). -/
theorem foregroundCycle_fault {s r : State} {f : Fault} (hs : s.Inv) (hr : s.fgStart = some r)
    (h : r.resumeFg = .fault f) : f = .delayRange := by
  rcases inForeground_handsOn.advance_error (fgStart_inForeground hs hr) (resumeFg_eq_fault h) with
    ⟨t, a, rest, ⟨hdata, -⟩, herror⟩ | ⟨t, -, hguarded | hraise⟩
  · exact absurd herror (runFgAct_ne_error hdata a f)
  · cases hguarded
  · cases hraise; rfl

/-- Settles O20, by the context that takes the cycle. -/
theorem onlyFaultIsDelayRange : Obligations.OnlyFaultIsDelayRange := by
  intro s f hs h
  obtain ⟨-, ⟨-, hfault⟩ | ⟨hturn, r, hr, hfault⟩⟩ := step_fault_cases h
  · exact absurd hfault (handlerCycle_ne_fault hs f)
  · exact ⟨foregroundCycle_fault hs hr hfault, not_handlerTurn_of_fgTurn hturn⟩

/-! ### Dispatch and return -/

theorem edgeDetect_dispatchable_iff (s : State) :
    s.edgeDetect.dispatchable = true ↔ s.edgeDetect.pending = true ∧ s.armed = true ∧ s.gie = true := by
  simp only [State.dispatchable, State.edgeDetect_armed, State.edgeDetect_gie, Bool.and_eq_true, and_assoc]

/-- Settles O51: the dispatch saves the `gie` it finds, which is 1; a cycle that is not the handler's keeps the handler's
context (O14). -/
theorem dispatchEntersTheHandler : Obligations.DispatchEntersTheHandler := by
  refine fun s hwf hidle => ⟨fun hpending harmed hgie => ?_, fun hmissing t ht => ?_⟩
  · have hdispatch := (edgeDetect_dispatchable_iff s).2 ⟨hpending, harmed, hgie⟩
    rw [step_of_dispatch hwf hidle hdispatch, State.dispatch, State.edgeDetect_gie, hgie]
  · have hturn : ¬ s.HandlerTurn := by
      rintro (hactive | hdispatch)
      · exact absurd (hidle.symm.trans hactive) nofun
      · obtain ⟨hpending, harmed, hgie⟩ := (edgeDetect_dispatchable_iff s).1 hdispatch
        rw [hpending, harmed, hgie] at hmissing
        exact absurd hmissing (by decide)
    obtain ⟨⟨hactive, hphase, -, -, -, hitems⟩, -⟩ := onlyTheHandlerReceives s t ht hturn
    exact ⟨hactive.trans hidle, hitems, hphase⟩

/-- Settles O52: the return is the whole of the cycle, and leaves the list empty. -/
theorem returnRestoresGie : Obligations.ReturnRestoresGie := by
  intro s hwf hactive hitems
  rw [step_of_active hwf hactive, State.advanceHandler, State.edgeDetect_hItems, hitems]
  rfl

end Sys2Proof.Machine
end

section
/-! The durations of 70_reset_and_hazards.md (R147): every command alone is complete at its last cycle, not before. -/

namespace Sys2Proof.Machine

/-- Command `i` alone takes `d` cycles: it is complete at the last of them and not before (R147). -/
def State.CompletesIn (s : State) (i : Instr) (d : Nat) : Prop :=
  (∃ t, s.runCommand i (d - 1) = .next t ∧ t.fgItems = .done) ∧
    ∀ n, n + 1 < d → ∃ t, s.runCommand i n = .next t ∧ t.fgItems.isDone = false

section
variable {s : State} {i : Instr}

/-- The cycles of a command of the block are its wait `CALL_PRE` and the cycles from its first action on (R6). -/
theorem completesIn_of_callPre {k : Nat} {t : State} (hidle : ∀ n, i ≠ .idle n) (hsei : i ≠ .sei) (hcli : i ≠ .cli)
    (hend : s.runCommand i (s.cfg.callPre + k) = .next t) (hdone : t.fgItems = .done)
    (hbefore : ∀ m, m < k → ∃ u, s.runCommand i (s.cfg.callPre + m) = .next u ∧ u.fgItems.isDone = false) :
    s.CompletesIn i (s.cfg.callPre + k + 1) := by
  refine ⟨⟨t, hend, hdone⟩, fun n hn => ?_⟩
  rcases lt_or_ge n s.cfg.callPre with hpre | hpost
  · obtain ⟨u, hu, -, hrunning⟩ := noEffectBeforeTheFirstAction i s n hidle hsei hcli hpre
    exact ⟨u, hu, hrunning⟩
  · obtain ⟨m, rfl⟩ := Nat.exists_eq_add_of_le hpost
    exact hbefore m (by omega)

/-- A command of the block that is complete with its first action takes `CALL_PRE` cycles and that one. -/
theorem completesIn_of_first_action {t : State} (hidle : ∀ n, i ≠ .idle n) (hsei : i ≠ .sei) (hcli : i ≠ .cli)
    (hend : s.runCommand i (s.cfg.callPre + 0) = .next t) (hdone : t.fgItems = .done) :
    s.CompletesIn i (s.cfg.callPre + 1) :=
  completesIn_of_callPre hidle hsei hcli hend hdone fun m hm => absurd hm (Nat.not_lt_zero m)

/-- A command that is complete in its fetch cycle takes one cycle. -/
theorem completesIn_one {t : State} (hend : s.runCommand i 0 = .next t) (hdone : t.fgItems = .done) :
    s.CompletesIn i 1 :=
  ⟨⟨t, hend, hdone⟩, fun n hn => absurd hn (by omega)⟩

theorem completesIn_begin (hwf : s.cfg.wf = true) (baud : Nat) :
    s.CompletesIn (.beginBaud baud) (s.duration (.beginBaud baud)) := by
  rw [State.duration]
  cases hrow : lookupRow s.cfg.calTable baud with
  | none => exact completesIn_of_first_action nofun nofun nofun (runCommand_begin_of_none hrow 0) rfl
  | some r =>
    have hpause : (State.installed { s with response := none } r).delayCycles .txDelay = r.tx * s.cfg.k :=
      installed_delayCycles (s := { s with response := none }) hwf hrow
    have hend := (runCommand_begin_of_some hrow (r.tx * s.cfg.k)).trans (fgFrom_pause_of_le rfl hpause.le)
    refine completesIn_of_callPre nofun nofun nofun hend rfl fun m hm => ?_
    obtain ⟨code, hrun, hcode⟩ := fgFrom_pause_of_lt (t := State.installed { s with response := none } r) (m := m) rfl
      (hm.trans_eq hpause.symm)
    exact ⟨_, (runCommand_begin_of_some hrow m).trans hrun, hcode⟩

theorem runCommand_read_of_empty (h : s.head = s.tail) (m : Nat) :
    s.runCommand .read (s.cfg.callPre + m) =
      .next { s with resp := some 0xFFFF, response := none, fgItems := .done } :=
  runCommand_of_respond (u := s) rfl (runFgAct_respondPop_of_empty (s := { s with response := none }) h) m

theorem runCommand_read_of_nonempty (hhead : s.head.toNat < s.cfg.c) (h : s.head ≠ s.tail) (m : Nat) :
    s.runCommand .read (s.cfg.callPre + m) =
      .next { s.advanceHead with
        resp := some (BitVec.ofNat 16 (s.buf.read s.head.toNat).toNat), response := none, fgItems := .done } :=
  runCommand_of_respond (u := s.advanceHead) rfl
    (runFgAct_respondPop_of_nonempty (s := { s with response := none }) hhead h) m

/-- READ has a byte to pop or none, and answers in the cycle of its action either way (43_ring_buffer.md R104). -/
theorem completesIn_read (hhead : s.head.toNat < s.cfg.c) : s.CompletesIn .read (s.cfg.callPre + 1) := by
  by_cases hempty : s.head = s.tail
  · exact completesIn_of_first_action nofun nofun nofun (runCommand_read_of_empty hempty 0) rfl
  · exact completesIn_of_first_action nofun nofun nofun (runCommand_read_of_nonempty hhead hempty 0) rfl

theorem runCommand_peek (hhead : s.head.toNat < s.cfg.c) (m : Nat) :
    s.runCommand .peek (s.cfg.callPre + m) =
      .next { s with
        resp := some (if s.head = s.tail then 0xFFFF else BitVec.ofNat 16 (s.buf.read s.head.toNat).toNat)
        response := none, fgItems := .done } :=
  runCommand_of_respond (u := s) rfl (runFgAct_respondPeek (s := { s with response := none }) hhead) m

theorem completesIn_overflowed (s : State) : s.CompletesIn .overflowed (s.cfg.callPre + s.cfg.ovfGap + 1) :=
  completesIn_of_callPre nofun nofun nofun (runCommand_overflowed_of_le le_rfl) rfl fun _ hm =>
    have ⟨_, hrun, hcode⟩ := runCommand_overflowed_of_lt hm
    ⟨_, hrun, hcode⟩

/-- A configured WRITE is in a slot of its frame or in its stop level, until that has stood its time (44_transmit.md R111,
R112). -/
theorem completesIn_write_of_configured (b : Byte) (hconfigured : s.txDelay ≠ 0)
    (hfits : s.txDelay.toNat + s.cfg.startAdj ≤ 65535) : s.CompletesIn (.write b) (s.duration (.write b)) := by
  have hstop := runCommand_write_eq_stopLevel b hconfigured hfits
  rw [duration_write b hconfigured]
  refine completesIn_of_callPre nofun nofun nofun ((hstop _).trans (fgFrom_stopLevel_of_le _ le_rfl)) rfl fun m hm => ?_
  rcases lt_or_ge m (s.slotStart b 9) with hframe | hlevel
  · obtain ⟨j, hj, hfrom, hto⟩ := exists_slot hframe
    obtain ⟨code, hrun, hcode⟩ := runCommand_write_in_slot hconfigured hfits hj hfrom hto
    exact ⟨_, hrun, hcode⟩
  · obtain ⟨k, rfl⟩ := Nat.exists_eq_add_of_le hlevel
    obtain ⟨code, hrun, hcode⟩ := fgFrom_stopLevel_of_lt (s := s) k (by omega)
    exact ⟨_, (hstop k).trans hrun, hcode⟩

theorem duration_write_of_unconfigured (b : Byte) (h : s.txDelay = 0) : s.duration (.write b) = s.cfg.callPre + 1 := by
  have hif : s.isConfigured = false := decide_eq_false (not_not.2 h)
  rw [State.duration, hif, if_neg nofun]

theorem completesIn_write (b : Byte) (h : s.txDelay = 0 ∨ s.txDelay.toNat + s.cfg.startAdj ≤ 65535) :
    s.CompletesIn (.write b) (s.duration (.write b)) := by
  by_cases hunconfigured : s.txDelay = 0
  · rw [duration_write_of_unconfigured b hunconfigured]
    exact completesIn_of_first_action nofun nofun nofun (runCommand_write_of_unconfigured b hunconfigured 0) rfl
  · exact completesIn_write_of_configured b hunconfigured (h.resolve_left hunconfigured)

/-- IDLE counts `n` cycles, its fetch cycle the first of them, and takes that cycle even for a count of 0. -/
theorem completesIn_idle (s : State) (n : Nat) : s.CompletesIn (.idle n) (max n 1) := by
  refine ⟨⟨_, runCommand_idle n _ s, ?_⟩, fun m hm => ⟨_, runCommand_idle n m s, ?_⟩⟩
  · rw [show n - 1 - (max n 1 - 1) = 0 by omega, Code.waitThen_zero]
  · obtain ⟨k, hk⟩ := Nat.exists_eq_add_one.2 (by omega : 0 < n - 1 - m)
    rw [hk, Code.waitThen_succ]
    rfl

end

/-- R147's table, row by row. -/
theorem completesIn_duration {s : State} (i : Instr) (hwf : s.cfg.wf = true) (hhead : s.head.toNat < s.cfg.c)
    (hwrite : (∃ b, i = .write b) → s.txDelay = 0 ∨ s.txDelay.toNat + s.cfg.startAdj ≤ 65535) :
    s.CompletesIn i (s.duration i) := by
  cases i with
  | beginBaud baud => exact completesIn_begin hwf baud
  | endSession => exact completesIn_of_first_action nofun nofun nofun (runCommand_endSession s 0) rfl
  | flush => exact completesIn_of_first_action nofun nofun nofun (runCommand_flush s 0) rfl
  | available => exact completesIn_of_first_action nofun nofun nofun (runCommand_available s 0) rfl
  | read => exact completesIn_read hhead
  | peek => exact completesIn_of_first_action nofun nofun nofun (runCommand_peek hhead 0) rfl
  | write b => exact completesIn_write b (hwrite ⟨b, rfl⟩)
  | overflowed => exact completesIn_overflowed s
  | idle n => exact completesIn_idle s n
  | sei => exact completesIn_one (runCommand_sei s 0) rfl
  | cli => exact completesIn_one (runCommand_cli s 0) rfl

/-- Settles O44, by the row of R147's table for each command. -/
theorem commandsTakeTheirDurations : Obligations.CommandsTakeTheirDurations := by
  intro s i hwf ⟨hhead, _⟩ hwrite
  obtain ⟨⟨t, hrun, hdone⟩, hbefore⟩ := completesIn_duration i hwf hhead hwrite
  obtain ⟨u, hexec, -⟩ := exec_next_of_runCommand hrun
  exact ⟨⟨u, hexec⟩, ⟨t, hrun, hdone⟩, hbefore⟩

end Sys2Proof.Machine
end

section
/-! Reset (70_reset_and_hazards.md R135), and the block before its first supported BEGIN (R136): the registers it holds
then are kept by every action of a command that installs no row of the table. -/

namespace Sys2Proof.Machine

/-! ### Reset -/

/-- Settles O17: the reset values do not depend on the configuration or an input but for `rx_prev`, the line at
cycle 0. -/
theorem resetGivesTheSpecsValues : Obligations.ResetGivesTheSpecsValues := fun p line stream foreign hwf =>
  ⟨State.resetWith p line stream foreign, if_pos hwf, ⟨rfl, rfl, rfl, rfl, rfl⟩, ⟨rfl, rfl, rfl, rfl⟩,
    ⟨rfl, rfl, rfl, rfl, rfl, rfl⟩, ⟨rfl, rfl⟩, ⟨rfl, rfl, rfl⟩, rfl, rfl, rfl⟩

/-- Slot 0 is one of the buffer's slots (00_scope.md R7). -/
theorem zero_lt_capacity {p : Params} (hwf : p.wf = true) : (0 : Byte).toNat < p.c := by
  have hcapacity := capacity_of_wf hwf
  show 0 < p.c
  omega

/-- At reset the indices are 0, the block is disarmed, and neither context has a list. -/
theorem State.IsReset.inv {s : State} (hs : s.IsReset) (hwf : s.cfg.wf = true) : s.Inv := by
  obtain ⟨-, ⟨hhead, htail, hmem⟩, ⟨-, harmed, hgie, -⟩, -, ⟨hidle, hphase, hitems⟩, -, hfg, -⟩ := hs
  have hzero := zero_lt_capacity hwf
  refine ⟨hwf, ⟨hhead ▸ hzero, htail ▸ hzero⟩, hmem, fun _ => hgie, fun h => absurd (harmed.symm.trans h) nofun,
    ⟨fun _ => ⟨hphase, hitems⟩, fun h => absurd (hidle.symm.trans h) nofun⟩, ?_⟩
  rw [hfg]
  rfl

/-- Settles O18. -/
theorem resetMeetsTheInvariant : Obligations.ResetMeetsTheInvariant :=
  ⟨fun _ hwf hs => hs.inv hwf, by decide, by decide⟩

/-! ### What the block holds before its first supported BEGIN -/

/-- The clauses of `State.Unbegun` that do not speak of the command in progress (R136). -/
def State.Dormant (s : State) : Prop :=
  s.cfg.wf = true ∧ (s.txDelay = 0 ∧ s.head = 0 ∧ s.tail = 0 ∧ s.ovf = false ∧ s.armed = false) ∧
    (s.tx = true ∧ s.hActive = false)

theorem State.unbegun_iff (s : State) :
    s.Unbegun ↔ s.Dormant ∧
      (FgCode.installsNothing s.cfg.calTable s.fgItems = true ∨
        ∃ n baud, s.fgItems = Code.waitThen n (installItems baud)) := by
  simp only [State.Unbegun, State.Dormant, and_assoc]

theorem State.IsReset.unbegun {s : State} (hs : s.IsReset) (hwf : s.cfg.wf = true) : s.Unbegun := by
  obtain ⟨⟨-, -, -, htx⟩, ⟨hhead, htail, -⟩, ⟨hovf, harmed, -, -⟩, ⟨-, hline, -⟩, ⟨hidle, -⟩, -, hfg, -⟩ := hs
  refine ⟨hwf, ⟨htx, hhead, htail, hovf, harmed⟩, ⟨hline, hidle⟩, .inl ?_⟩
  rw [hfg]
  rfl

/-- Disarmed and with the handler idle, no cycle is the handler's. -/
theorem State.Dormant.not_handlerTurn {s : State} (hs : s.Dormant) : ¬ s.HandlerTurn := by
  obtain ⟨-, ⟨-, -, -, -, harmed⟩, -, hidle⟩ := hs
  rintro (hactive | hdispatch)
  · exact absurd (hidle.symm.trans hactive) nofun
  · exact absurd (harmed.symm.trans ((edgeDetect_dispatchable_iff s).1 hdispatch).2.1) nofun

/-! ### Every step but a supported install keeps it -/

/-- The foreground in a cycle that installs no row, with `code` still to run. -/
def State.RunsDormant (s : State) (code : FgCode) : Prop :=
  s.Dormant ∧ FgCode.installsNothing s.cfg.calTable code = true

/-- WRITE's frame is not in the list, an install finds no row, and READ finds the buffer empty. -/
theorem State.RunsDormant.act {s t : State} {a : FgAct} {rest : FgCode} (hs : s.RunsDormant (.act a rest))
    (h : runFgAct a s = .ok t) : t.RunsDormant rest := by
  obtain ⟨hdormant, hcode⟩ := hs
  have ⟨hwf, ⟨htx, hhead, htail, hovf, harmed⟩, hline, hidle⟩ := hdormant
  cases a with
  | install baud =>
    simp only [FgCode.installsNothing, Bool.and_eq_true, Option.isNone_iff_eq_none] at hcode
    cases (runFgAct_install_of_none hcode.1).symm.trans h
    exact ⟨⟨hwf, ⟨rfl, rfl, rfl, rfl, rfl⟩, hline, hidle⟩, hcode.2⟩
  | respondPop =>
    cases (runFgAct_respondPop_of_empty (hhead.trans htail.symm)).symm.trans h
    exact ⟨hdormant, hcode⟩
  | respondPeek => rcases respondPeek_cases h with ⟨-, rfl⟩ | ⟨-, -, rfl⟩ <;> exact ⟨hdormant, hcode⟩
  | disarm => cases h; exact ⟨⟨hwf, ⟨htx, hhead, htail, hovf, rfl⟩, hline, hidle⟩, hcode⟩
  | resetIndices => cases h; exact ⟨⟨hwf, ⟨htx, rfl, rfl, hovf, harmed⟩, hline, hidle⟩, hcode⟩
  | clearOverflow => cases h; exact ⟨⟨hwf, ⟨htx, hhead, htail, rfl, harmed⟩, hline, hidle⟩, hcode⟩
  | stopBit => cases h; exact ⟨⟨hwf, ⟨htx, hhead, htail, hovf, harmed⟩, rfl, hidle⟩, hcode⟩
  | startBit => cases hcode
  | dataBit level => cases hcode
  | _ => cases h; exact ⟨hdormant, hcode⟩

/-- WRITE's first test goes the way of R113: `txDelay` is 0. -/
theorem runsDormant_handsOn : HandsOn runFgAct fgHolds State.RunsDormant where
  wait _ _ _ hs := ⟨hs, fun _ => hs⟩
  delay _ _ _ hs := ⟨hs, fun _ => hs⟩
  act _ _ _ _ hs h := hs.act h
  yes := by
    rintro s c yes no ⟨hdormant, hcode⟩ -
    cases c with
    | unconfigured => exact ⟨hdormant, hcode⟩
    | rowFound => exact ⟨hdormant, (Bool.and_eq_true_iff.1 hcode).1⟩
    | startTooLong => exact ⟨hdormant, (Bool.and_eq_true_iff.1 hcode).1⟩
  no := by
    rintro s c yes no ⟨hdormant, hcode⟩ hfails
    cases c with
    | unconfigured =>
      rw [fgHolds_unconfigured, decide_eq_true hdormant.2.1.1] at hfails
      cases hfails
    | rowFound => exact ⟨hdormant, (Bool.and_eq_true_iff.1 hcode).2⟩
    | startTooLong => exact ⟨hdormant, (Bool.and_eq_true_iff.1 hcode).2⟩

theorem resumeFg_unbegun_of_runsDormant {s t : State} (hs : s.RunsDormant s.fgItems) (h : s.resumeFg = .next t) :
    t.Unbegun := by
  obtain ⟨u, rest, hadvance, rfl⟩ := resumeFg_eq_next h
  obtain ⟨hdormant, hrest⟩ := runsDormant_handsOn.advance hs hadvance
  rw [complete_eq]
  exact (State.unbegun_iff _).2 ⟨hdormant, .inl hrest⟩

/-- A BEGIN in its wait `CALL_PRE` only counts it down. -/
theorem resumeFg_unbegun_of_waiting {s t : State} {n baud : Nat} (hs : s.Dormant)
    (hitems : s.fgItems = .wait (n + 1) (installItems baud)) (h : s.resumeFg = .next t) : t.Unbegun := by
  obtain ⟨u, rest, hadvance, rfl⟩ := resumeFg_eq_next h
  rw [hitems, advance_wait_succ] at hadvance
  cases hadvance
  rw [complete_eq]
  exact (State.unbegun_iff _).2 ⟨hs, .inr ⟨n, baud, rfl⟩⟩

theorem installItems_installsNothing {table : List CalRow} {baud : Nat} (h : lookupRow table baud = none) :
    FgCode.installsNothing table (installItems baud) = true := by
  simp [installItems, FgCode.installsNothing, h]

/-- A command whose fetch cycle installs no row of the table is a BEGIN with a wait before its install, or has a list
that installs nothing. -/
theorem itemsOf_cases_of_fetch {p : Params} {i : Instr}
    (h : ∀ baud, i = .beginBaud baud → p.callPre = 0 → lookupRow p.calTable baud = none) :
    FgCode.installsNothing p.calTable (itemsOf p i) = true ∨
      ∃ n baud, itemsOf p i = .wait (n + 1) (installItems baud) := by
  by_cases hbegin : ∃ baud, i = .beginBaud baud
  · obtain ⟨baud, rfl⟩ := hbegin
    rw [itemsOf_begin]
    cases hpre : p.callPre with
    | zero => exact .inl (installItems_installsNothing (h baud rfl hpre))
    | succ n => exact .inr ⟨n, baud, rfl⟩
  · exact .inl (itemsOf_installsNothing fun baud hi => absurd ⟨baud, hi⟩ hbegin)

/-- The foreground's cycle in an unbegun state starts with a list that installs nothing, or in a BEGIN's wait, unless it
is the install action's. -/
theorem fgStart_of_unbegun {s r : State} (hs : s.Unbegun) (hturn : s.FgTurn)
    (hinstalls : ∀ baud, s.Installs baud → lookupRow s.cfg.calTable baud = none) (hr : s.fgStart = some r) :
    r.RunsDormant r.fgItems ∨ r.Dormant ∧ ∃ n baud, r.fgItems = .wait (n + 1) (installItems baud) := by
  obtain ⟨hdormant, hitems⟩ := (State.unbegun_iff s).1 hs
  rcases fgStart_cases hr with ⟨-, rfl⟩ | ⟨w, i, hdone, hword, hdecode, rfl⟩
  · rcases hitems with hnothing | ⟨n, baud, hwaiting⟩
    · exact .inl ⟨hdormant, hnothing⟩
    · cases n with
      | zero =>
        have hnothing := installItems_installsNothing (hinstalls baud (.inr ⟨hturn, _, hwaiting⟩))
        exact .inl ⟨hdormant, hwaiting ▸ hnothing⟩
      | succ n => exact .inr ⟨hdormant, n, baud, hwaiting⟩
  · have hfetch : ∀ baud, i = .beginBaud baud → s.cfg.callPre = 0 → lookupRow s.cfg.calTable baud = none :=
      fun baud hi hpre => hinstalls baud (.inl ⟨⟨hturn, hdone, w, hword, hi ▸ hdecode⟩, hpre⟩)
    rcases itemsOf_cases_of_fetch hfetch with hnothing | hwaiting
    · exact .inl ⟨hdormant, hnothing⟩
    · exact .inr ⟨hdormant, hwaiting⟩

theorem State.Unbegun.step {s t : State} (hs : s.Unbegun)
    (hinstalls : ∀ baud, s.Installs baud → lookupRow s.cfg.calTable baud = none) (h : Machine.step s = .next t) :
    t.Unbegun := by
  rcases step_cases h with ⟨hhandler, -⟩ | ⟨hturn, r, u, hr, hu, rfl⟩ | ⟨-, -, rfl⟩
  · exact absurd hhandler ((State.unbegun_iff s).1 hs).1.not_handlerTurn
  · rcases fgStart_of_unbegun hs hturn hinstalls hr with hruns | ⟨hdormant, n, baud, hwaiting⟩
    · have hunbegun : u.Unbegun := resumeFg_unbegun_of_runsDormant hruns hu
      exact hunbegun
    · have hunbegun : u.Unbegun := resumeFg_unbegun_of_waiting hdormant hwaiting hu
      exact hunbegun
  · exact hs

/-! ### What it answers -/

section
variable {s : State} (hs : s.Dormant)
include hs

theorem State.Dormant.write_keeps_line_idle {b : Byte} {n : Nat} {u : State} (h : s.runCommand (.write b) n = .next u) :
    u.tx = true := by
  obtain ⟨-, ⟨htxDelay, -⟩, hline, -⟩ := hs
  rcases runCommand_callPre_cases h nofun nofun nofun with hwaiting | ⟨m, hm⟩
  · rw [hwaiting]
    exact hline
  · cases (runCommand_write_of_unconfigured b htxDelay m).symm.trans hm
    exact hline

theorem State.Dormant.count_eq_zero : s.count = 0 := by
  obtain ⟨-, ⟨-, hhead, htail, -⟩, -⟩ := hs
  rw [State.count, hhead, htail, occupancy_self]

theorem State.Dormant.write_responds (b : Byte) :
    ∃ t, s.runCommand (.write b) (s.duration (.write b) - 1) = .next t ∧ t.resp = some 0 := by
  obtain ⟨-, ⟨htxDelay, -⟩, -⟩ := hs
  rw [duration_write_of_unconfigured b htxDelay]
  exact ⟨_, runCommand_write_of_unconfigured b htxDelay 0, rfl⟩

theorem State.Dormant.available_responds :
    ∃ t, s.runCommand .available (s.duration .available - 1) = .next t ∧ t.resp = some 0 := by
  refine ⟨_, runCommand_available s 0, ?_⟩
  rw [hs.count_eq_zero]
  rfl

theorem State.Dormant.read_responds :
    ∃ t, s.runCommand .read (s.duration .read - 1) = .next t ∧ t.resp = some 0xFFFF := by
  obtain ⟨-, ⟨-, hhead, htail, -⟩, -⟩ := hs
  exact ⟨_, runCommand_read_of_empty (hhead.trans htail.symm) 0, rfl⟩

theorem State.Dormant.peek_responds :
    ∃ t, s.runCommand .peek (s.duration .peek - 1) = .next t ∧ t.resp = some 0xFFFF := by
  obtain ⟨hwf, ⟨-, hhead, htail, -⟩, -⟩ := hs
  have hinside : s.head.toNat < s.cfg.c := hhead ▸ zero_lt_capacity hwf
  exact ⟨_, runCommand_peek hinside 0, congrArg some (if_pos (hhead.trans htail.symm))⟩

theorem State.Dormant.overflowed_responds :
    ∃ t, s.runCommand .overflowed (s.duration .overflowed - 1) = .next t ∧ t.resp = some 0 := by
  obtain ⟨-, ⟨-, -, -, hovf, -⟩, -⟩ := hs
  refine ⟨_, runCommand_overflowed_of_le le_rfl, ?_⟩
  rw [hovf]
  rfl

end

/-- Settles O49: what the block holds before its first supported BEGIN answers for it. -/
theorem unbegunBlockAnswersEmpty : Obligations.UnbegunBlockAnswersEmpty := by
  refine ⟨fun s hwf hreset => hreset.unbegun hwf, fun s t hs hinstalls h => hs.step hinstalls h, fun s hs => ?_⟩
  have hdormant := ((State.unbegun_iff s).1 hs).1
  exact ⟨hdormant.not_handlerTurn, fun _ _ _ h => hdormant.write_keeps_line_idle h, hdormant.write_responds,
    hdormant.available_responds, hdormant.read_responds, hdormant.peek_responds, hdormant.overflowed_responds⟩

end Sys2Proof.Machine
end

section
/-! Words of 95_test_vectors.md L2.1: a command's word is the one the encoder gives it, and a reserved word is known by its
number. -/

namespace Sys2Proof

/-- Settles O4: five of the words are encodings of well-formed commands (O1), and the sixth is END's opcode with a nonzero
operand, which R66 reserves (O3). -/
theorem wordsOfTheSpecDecode : Obligations.WordsOfTheSpecDecode := by
  have hdecode := decodeOfEncodeIsTheCommand
  have hreserved : IsReservedNumber (0x20000001 : Word).toNat := .inr (.inl ⟨by decide, by decide⟩)
  exact ⟨hdecode (.beginBaud 9600) rfl, hdecode .endSession rfl, hdecode (.write 0xA5) rfl, hdecode (.idle 2000) rfl,
    hdecode .sei rfl, (decode_eq_reserved_iff _).2 hreserved⟩

end Sys2Proof
end
